-- ==== Sys2Proof/Word.lean ====
section
/-! DEFINITION. The word types of NRP-64 (rules R5, R7, R30). Only names for widths stand here; every operation on
them is in Decode.lean or under Machine/. -/

namespace Sys2Proof

/-- A 4-bit nibble, one of the 16 cells of a state (rule R5). -/
abbrev Nibble := BitVec 4

/-- An 8-bit field: the `OP` and `A` fields of a command word, and the registers `NR`, `RI`, `FOP`, `FA`. -/
abbrev Byte := BitVec 8

/-- A 64-bit value: a cipher state, a key, a round key, a packed table or a response (rule R5). -/
abbrev Word64 := BitVec 64

/-- An 80-bit command word `CW = {OP[79:72], A[71:64], D[63:0]}` (rule R30). -/
abbrev CmdWord := BitVec 80

/-- A lookup table: a total function from {0..15} to {0..15}, given as the sequence of its 16 entries, entry 0
first. No entry is outside [0,16), and nothing asks for a bijection (rules R7, R14). -/
abbrev Lut := Vector Nibble 16

end Sys2Proof
end

