-- ==== Sys2Proof/Syntax.lean ====
section
/-! DEFINITION. The 27 commands of rule R33, one constructor each. An operand is a field of the command word as it
stands (rule R32): `a` the 8-bit field `A`, `d` the 64-bit field `D`; a command has the fields its format uses
(rule R31). Every term is a command that some word encodes. -/

namespace Sys2Proof

/-- A command of NRP-64 (rule R33). -/
inductive Instr where
  /-- `LDS #d`: load state (rule R40). -/
  | lds (d : Word64)
  /-- `LDK0 #d`: load half-key 0 (rule R41). -/
  | ldk0 (d : Word64)
  /-- `LDK1 #d`: load half-key 1 (rule R42). -/
  | ldk1 (d : Word64)
  /-- `LDWK #d`: load whitening key (rule R43). -/
  | ldwk (d : Word64)
  /-- `LDSB #d`: load substitution table (rule R44). -/
  | ldsb (d : Word64)
  /-- `LDPM #d`: load cell-shuffle table (rule R45). -/
  | ldpm (d : Word64)
  /-- `LDRK a, #d`: load one round key (rule R46). -/
  | ldrk (a : Byte) (d : Word64)
  /-- `SETM a`: set round-constant mode (rule R47). -/
  | setm (a : Byte)
  /-- `RDS`: read state (rule R48). -/
  | rds
  /-- `RDK0`: read half-key 0 (rule R49). -/
  | rdk0
  /-- `RDK1`: read half-key 1 (rule R50). -/
  | rdk1
  /-- `RDWK`: read whitening key (rule R51). -/
  | rdwk
  /-- `RDSB`: read substitution table (rule R52). -/
  | rdsb
  /-- `RDPM`: read cell-shuffle table (rule R53). -/
  | rdpm
  /-- `RDRK a`: read one round key (rule R54). -/
  | rdrk (a : Byte)
  /-- `RDST`: read status (rule R55). -/
  | rdst
  /-- `SUB`: substitution layer (rule R61). -/
  | sub
  /-- `SHF`: cell-shuffle layer (rule R62). -/
  | shf
  /-- `MIX`: diffusion layer (rule R63). -/
  | mix
  /-- `AK a`: XOR with round key `a` (rule R64). -/
  | ak (a : Byte)
  /-- `WHT`: XOR with the whitening key (rule R65). -/
  | wht
  /-- `RND a`: one full round with round key `a` (rule R66). -/
  | rnd (a : Byte)
  /-- `KSCH n`: run the key schedule for `n` rounds (rule R72). -/
  | ksch (a : Byte)
  /-- `START n`: begin a stepped encryption of `n` rounds (rule R78). -/
  | start (a : Byte)
  /-- `STEP`: apply the next layer (rule R79). -/
  | step
  /-- `RUN`: apply all remaining layers (rule R80). -/
  | run
  /-- `ENC n`: full encryption of `n` rounds (rule R81). -/
  | enc (a : Byte)
deriving DecidableEq, Repr

end Sys2Proof
end

