-- ==== Sys2Proof/WellFormed.lean ====
section
/-! DEFINITION. When a command word is well formed (rules R31, R34). Well-formedness is a property of WORDS, split into
their fields: an `Instr` has only the fields its format uses, at their widths, so every `Instr` is well formed
(log 10). The range of an operand is no part of it: a well-formed word may still raise `BAD_OPERAND` (rule R34). -/

namespace Sys2Proof

/-- The four formats of rule R31. -/
inductive Format where
  /-- Neither `A` nor `D` is used. -/
  | n
  /-- `A` is used, `D` is reserved. -/
  | a
  /-- `D` is used, `A` is reserved. -/
  | d
  /-- Both are used. -/
  | ad
deriving DecidableEq, Repr

/-- Does a command of this format use `A`? (rule R31) -/
def Format.usesA : Format → Bool
  | .n => false
  | .a => true
  | .d => false
  | .ad => true

/-- Does a command of this format use `D`? (rule R31) -/
def Format.usesD : Format → Bool
  | .n => false
  | .a => false
  | .d => true
  | .ad => true

/-- The check on `A`: a format that does not use it has `A = 0` (rule R34). -/
def Format.okA (f : Format) (a : Byte) : Bool := f.usesA || a == 0

/-- The check on `D`: a format that does not use it has `D = 0` (rule R34). -/
def Format.okD (f : Format) (d : Word64) : Bool := f.usesD || d == 0

/-- Rule R34: a word with fields `a` and `d` is well formed when its opcode has a format (`none` for the 229 unlisted
opcodes) and that format's reserved fields are zero. -/
def wellFormedFields (f : Option Format) (a : Byte) (d : Word64) : Bool :=
  match f with
  | none => false
  | some f => f.okA a && f.okD d

end Sys2Proof
end

