-- ==== Sys2Proof/Decode.lean ====
section
/-! DEFINITION. Command encoding (30_encoding.md): the fields of a command word (rule R30), the opcode map (rule R33), the
decoder (rule R37), the encoder, and the byte order of a transport (rule R24). -/

namespace Sys2Proof

/-- `CW[79:72]`, the opcode (rule R30). -/
def cwOp (cw : CmdWord) : Byte := cw.extractLsb' 72 8

/-- `CW[71:64]`, the operand (rule R30). -/
def cwA (cw : CmdWord) : Byte := cw.extractLsb' 64 8

/-- `CW[63:0]`, the data (rule R30). -/
def cwD (cw : CmdWord) : Word64 := cw.extractLsb' 0 64

/-- `CW = {OP, A, D}` (rule R30). -/
def cmdWord (op a : Byte) (d : Word64) : CmdWord := op ++ a ++ d

/-- How a command is built from the fields of its word: one form per format of rule R31. -/
inductive Shape where
  /-- Format N. -/
  | n (i : Instr)
  /-- Format A. -/
  | a (f : Byte → Instr)
  /-- Format D. -/
  | d (f : Word64 → Instr)
  /-- Format AD. -/
  | ad (f : Byte → Word64 → Instr)

/-- The format of a shape (rule R31). -/
def Shape.format : Shape → Format
  | .n _ => .n
  | .a _ => .a
  | .d _ => .d
  | .ad _ => .ad

/-- The command a word with fields `a` and `d` stands for, once its reserved fields are known to be zero. -/
def Shape.build (sh : Shape) (a : Byte) (d : Word64) : Instr :=
  match sh with
  | .n i => i
  | .a f => f a
  | .d f => f d
  | .ad f => f a d

/-- The opcode map of rule R33, one row per command in the rule's order. -/
def opcodeTable : List (Byte × Shape) :=
  [(0x01, .d .lds), (0x02, .d .ldk0), (0x03, .d .ldk1), (0x04, .d .ldwk), (0x05, .d .ldsb), (0x06, .d .ldpm),
   (0x07, .ad .ldrk), (0x08, .a .setm)] ++
  [(0x11, .n .rds), (0x12, .n .rdk0), (0x13, .n .rdk1), (0x14, .n .rdwk), (0x15, .n .rdsb), (0x16, .n .rdpm),
   (0x17, .a .rdrk), (0x18, .n .rdst)] ++
  [(0x20, .n .sub), (0x21, .n .shf), (0x22, .n .mix), (0x23, .a .ak), (0x24, .n .wht), (0x25, .a .rnd)] ++
  [(0x30, .a .ksch)] ++
  [(0x40, .a .start), (0x41, .n .step), (0x42, .n .run), (0x43, .a .enc)]

/-- The row of an opcode in rule R33, if it has one. -/
def shapeOf (op : Byte) : Option Shape := opcodeTable.lookup op

/-- The format of an opcode, if it is listed (rules R31, R33). -/
def formatOf (op : Byte) : Option Format := (shapeOf op).map Shape.format

/-- Why a word is illegal (rules R34, R88). The three have one cause code and one record, so no command sees which. -/
inductive Illegal where
  /-- `OP` is not in the table of rule R33. -/
  | unlistedOp
  /-- The format does not use `A`, and `A` is not zero. -/
  | reservedA
  /-- The format does not use `D`, and `D` is not zero. -/
  | reservedD
deriving DecidableEq, Repr

/-- The result of decoding, `Cmd + Illegal` (rule R37). -/
inductive Decoded where
  /-- The word is a command. -/
  | cmd (i : Instr)
  /-- The word is illegal, rejected by name. -/
  | illegal (why : Illegal)
deriving DecidableEq, Repr

/-- Rule R37: decode, total on the 2^80 words. The order of the checks is rule R88's. -/
def decode (cw : CmdWord) : Decoded :=
  match shapeOf (cwOp cw) with
  | none => .illegal .unlistedOp
  | some sh =>
    if !sh.format.okA (cwA cw) then .illegal .reservedA
    else if !sh.format.okD (cwD cw) then .illegal .reservedD
    else .cmd (sh.build (cwA cw) (cwD cw))

/-- Rule R34: the word is well formed. -/
def wellFormedWord (cw : CmdWord) : Bool := wellFormedFields (formatOf (cwOp cw)) (cwA cw) (cwD cw)

/-- The opcode of a command (rule R33). -/
def Instr.opcode : Instr → Byte
  | .lds _ => 0x01
  | .ldk0 _ => 0x02
  | .ldk1 _ => 0x03
  | .ldwk _ => 0x04
  | .ldsb _ => 0x05
  | .ldpm _ => 0x06
  | .ldrk _ _ => 0x07
  | .setm _ => 0x08
  | .rds => 0x11
  | .rdk0 => 0x12
  | .rdk1 => 0x13
  | .rdwk => 0x14
  | .rdsb => 0x15
  | .rdpm => 0x16
  | .rdrk _ => 0x17
  | .rdst => 0x18
  | .sub => 0x20
  | .shf => 0x21
  | .mix => 0x22
  | .ak _ => 0x23
  | .wht => 0x24
  | .rnd _ => 0x25
  | .ksch _ => 0x30
  | .start _ => 0x40
  | .step => 0x41
  | .run => 0x42
  | .enc _ => 0x43

/-- The `A` field of a command's word: its operand, or zero where the format does not use it (rules R31, R34). -/
def Instr.fieldA : Instr → Byte
  | .lds _ => 0
  | .ldk0 _ => 0
  | .ldk1 _ => 0
  | .ldwk _ => 0
  | .ldsb _ => 0
  | .ldpm _ => 0
  | .ldrk a _ => a
  | .setm a => a
  | .rds => 0
  | .rdk0 => 0
  | .rdk1 => 0
  | .rdwk => 0
  | .rdsb => 0
  | .rdpm => 0
  | .rdrk a => a
  | .rdst => 0
  | .sub => 0
  | .shf => 0
  | .mix => 0
  | .ak a => a
  | .wht => 0
  | .rnd a => a
  | .ksch a => a
  | .start a => a
  | .step => 0
  | .run => 0
  | .enc a => a

/-- The `D` field of a command's word: its data, or zero where the format does not use it (rules R31, R34). -/
def Instr.fieldD : Instr → Word64
  | .lds d => d
  | .ldk0 d => d
  | .ldk1 d => d
  | .ldwk d => d
  | .ldsb d => d
  | .ldpm d => d
  | .ldrk _ d => d
  | .setm _ => 0
  | .rds => 0
  | .rdk0 => 0
  | .rdk1 => 0
  | .rdwk => 0
  | .rdsb => 0
  | .rdpm => 0
  | .rdrk _ => 0
  | .rdst => 0
  | .sub => 0
  | .shf => 0
  | .mix => 0
  | .ak _ => 0
  | .wht => 0
  | .rnd _ => 0
  | .ksch _ => 0
  | .start _ => 0
  | .step => 0
  | .run => 0
  | .enc _ => 0

/-- The command word of a command (rules R30, R33, R37). -/
def encode (i : Instr) : CmdWord := cmdWord i.opcode i.fieldA i.fieldD

/-- The instruction the decoder reads from an instruction whose bits are `w`, numbered as spec/opcode_table.json numbers
them: one 80-bit word, bit 0 its least significant bit; bits above `nbits` are zero (log 12). -/
def decodeTableWord (nbits w : Nat) : Option Instr :=
  match decode (BitVec.ofNat 80 (w % 2 ^ nbits)) with
  | .cmd i => some i
  | .illegal _ => none

/-- A 64-bit value as 8 bytes, most significant first (rule R24). -/
def bytesOfWord64 (v : Word64) : List Byte := (List.range 8).map fun k => v.extractLsb' (56 - 8 * k) 8

/-- A command word as 10 bytes: byte 0 is `OP`, byte 1 is `A`, bytes 2 to 9 are `D`, most significant first
(rule R24). -/
def bytesOfCmdWord (cw : CmdWord) : List Byte := (List.range 10).map fun k => cw.extractLsb' (72 - 8 * k) 8

/-- The 64-bit value at the front of a list of bytes, with the rest of the list; `none` where fewer than 8 stand there
(rule R24). -/
def word64OfBytes : List Byte → Option (Word64 × List Byte)
  | b0 :: b1 :: b2 :: b3 :: b4 :: b5 :: b6 :: b7 :: rest =>
    some (b0 ++ b1 ++ b2 ++ b3 ++ b4 ++ b5 ++ b6 ++ b7, rest)
  | _ => none

/-- The command word at the front of a list of bytes, with the rest of the list; `none` where fewer than 10 stand there
(rule R24). -/
def cmdWordOfBytes : List Byte → Option (CmdWord × List Byte)
  | op :: a :: rest => (word64OfBytes rest).map fun (d, rest) => (cmdWord op a d, rest)
  | _ => none

/-- Decode the command at the front of a list of bytes, with the rest of the list: total on any bytes (rules R24,
R37). -/
def decodeBytes (bs : List Byte) : Option (Decoded × List Byte) :=
  (cmdWordOfBytes bs).map fun (cw, rest) => (decode cw, rest)

end Sys2Proof
end

