-- ==== Sys2Proof/Config.lean ====
section
/-! DEFINITION. The configuration record of rule R8: the parameters the model takes as an argument. It is no state:
nothing changes it (10_state.md). What is said of a machine holds for every configuration, unless it names the values
the spec takes, `Config.taken`. -/

namespace Sys2Proof

/-- The configuration record of rule R8: any values its constraints allow. -/
structure Config where
  /-- `RKDEPTH`, the number of words of the round-key memory and of each constant table. -/
  rkDepth : Nat
  /-- `15 <= RKDEPTH`. -/
  depth_ge : 15 ≤ rkDepth
  /-- `RKDEPTH <= 254`. -/
  depth_le : rkDepth ≤ 254
  /-- `SBOX_DEFAULT`, the reset contents of the substitution table. -/
  sboxDefault : Lut
  /-- `PERM_DEFAULT`, the reset contents of the cell-shuffle table. -/
  permDefault : Lut
  /-- `RC_STD[0..RKDEPTH-1]`, the canonical constant table (rule R22). -/
  rcStd : Vector Word64 rkDepth
  /-- `RC_WEAK[0..RKDEPTH-1]`, the alternate constant table (rule R22). -/
  rcWeak : Vector Word64 rkDepth
deriving DecidableEq, Repr

/-- The value rule R8 takes for `SBOX_DEFAULT` (log 2). -/
def Config.sboxTaken : Lut :=
  #v[0xC, 0xA, 0xD, 0x3, 0xE, 0xB, 0xF, 0x7, 0x8, 0x9, 0x1, 0x5, 0x0, 0x2, 0x4, 0x6]

/-- The value rule R8 takes for `PERM_DEFAULT` (log 2). -/
def Config.permTaken : Lut :=
  #v[0, 10, 5, 15, 14, 4, 11, 1, 9, 3, 12, 6, 7, 13, 2, 8]

/-- The 15 words rule R22 takes for `RC_STD`, with `RKDEPTH = 15` (log 2). -/
def Config.rcStdTaken : Vector Word64 15 :=
  #v[0x0001010110110011, 0x0111100011000000, 0x1010010000110101, 0x0110001000010011, 0x0001000001001111,
     0x1101000101110000, 0x0000001001100110, 0x0000101111001100, 0x1001010010000001, 0x0100000010111000,
     0x0111000110010111, 0x0010001010001110, 0x0101000100110000, 0x1111100011001010, 0x1101111110010000]

/-- `RC_WEAK` of the configuration taken: OPEN, the spec gives no value. A free value: it has no body, so nothing in
this model can see a word of it (log 3, DESIGN CHOICE, safe). -/
opaque Config.rcWeakTaken : Vector Word64 15

/-- The configuration of the values the spec takes (rule R8; log 1, log 2, log 3). -/
def Config.taken : Config where
  rkDepth := 15
  depth_ge := by decide
  depth_le := by decide
  sboxDefault := Config.sboxTaken
  permDefault := Config.permTaken
  rcStd := Config.rcStdTaken
  rcWeak := Config.rcWeakTaken

end Sys2Proof
end

