-- ==== Sys2Proof/Machine/State.lean ====
section
/-! DEFINITION. The state of one NRP-64 (10_state.md rules R10 to R20), its configuration (rule R8), its host interface,
its state after reset (rule R19), and the reasons a step of the MODEL can stop. -/

namespace Sys2Proof.Machine

/-- The round-constant mode `RCM`: 2 bits, whose value 3 can never be held (rule R16; log 7). -/
inductive RcMode where
  /-- 0: no round constants. -/
  | none
  /-- 1: the alternate constant table `RC_WEAK`. -/
  | weak
  /-- 2: the canonical constant table `RC_STD`. -/
  | standard
deriving DecidableEq, Repr

/-- The phase `PH`: 3 bits, naming the next layer to be applied to `S`; all eight values are legal (rule R17; log 7). -/
inductive Phase where
  /-- 0: no encryption in progress. -/
  | idle
  /-- 1: XOR whitening key (input whitening). -/
  | win
  /-- 2: substitute. -/
  | sub
  /-- 3: shuffle. -/
  | shf
  /-- 4: diffuse. -/
  | mix
  /-- 5: XOR round key `RK[RI]`. -/
  | ak
  /-- 6: final substitute. -/
  | fsub
  /-- 7: XOR whitening key (output whitening). -/
  | wout
deriving DecidableEq, Repr

/-- The code of the first fault, `CAUSE`: 4 bits, whose codes 4 to 15 are never produced (rules R18, R86; log 7). -/
inductive Cause where
  /-- 0: no fault. -/
  | none
  /-- 1: the command word is not well formed. -/
  | illegalCmd
  /-- 2: `A` is outside its range. -/
  | badOperand
  /-- 3: `STEP` or `RUN` with no encryption in progress. -/
  | badSequence
deriving DecidableEq, Repr

/-- The two ways in which a host acts on the block (rules R4, R110). -/
inductive HostAction where
  /-- `reset` (rule R98). -/
  | reset
  /-- `issue(CW)`: present one 80-bit command word (rule R110). -/
  | issue (cw : CmdWord)
deriving DecidableEq, Repr

/-- The configuration the machine was built with, the sixteen pieces of rule R20's tuple, then the two fields of the
model's host interface. -/
structure State where
  /-- The configuration record, the parameter of the step function: no state of the block, and nothing writes it
  (rule R8; log 18). -/
  cfg : Config
  /-- `S`, the state register (rule R10). -/
  s : Word64
  /-- `K0`, half-key 0 (rule R11). -/
  k0 : Word64
  /-- `K1`, half-key 1 (rule R11). -/
  k1 : Word64
  /-- `WK`, the whitening key (rule R12). -/
  wk : Word64
  /-- `SBOX`, the substitution table (rule R13). -/
  sbox : Lut
  /-- `PERM`, the cell-shuffle table (rule R14). -/
  perm : Lut
  /-- `RK[0..RKDEPTH-1]`, the round-key memory (rules R15, R21; log 6). -/
  rk : Vector Word64 cfg.rkDepth
  /-- `RCM`, the round-constant mode (rule R16). -/
  rcm : RcMode
  /-- `NR`, the round count of the encryption in progress (rule R17). -/
  nr : Byte
  /-- `RI`, the index of the next round key to consume (rule R17). -/
  ri : Byte
  /-- `PH`, the phase (rule R17). -/
  ph : Phase
  /-- `ERR`, set when a fault has been raised since the last reset (rule R18). -/
  err : Bool
  /-- `CAUSE`, the code of the first fault (rules R18, R86). -/
  cause : Cause
  /-- `DONE`, set by the output whitening that ends an encryption (rule R18). -/
  done : Bool
  /-- `FOP`, the opcode field of the word that raised the fault (rule R18). -/
  fop : Byte
  /-- `FA`, the operand field of the word that raised the fault (rule R18). -/
  fa : Byte
  /-- The MODEL's own: what the host got back from its last action, `DOUT` after `issue`, nothing after `reset`
  (rules R36, R111; log 5). -/
  dout : Option Word64
  /-- The MODEL's own: the actions the host is still to perform, oldest first (rule R110; log 4). -/
  host : List HostAction
deriving DecidableEq, Repr

/-- The state right after reset of a block built with configuration `C`, as rule R19 gives it; no response and no host
action yet (log 4, log 5). -/
def State.resetOf (C : Config) : State where
  cfg := C
  s := 0
  k0 := 0
  k1 := 0
  wk := 0
  sbox := C.sboxDefault
  perm := C.permDefault
  rk := Vector.replicate C.rkDepth 0
  rcm := .none
  nr := 0
  ri := 0
  ph := .idle
  err := false
  cause := .none
  done := false
  fop := 0
  fa := 0
  dout := Option.none
  host := []

/-- The state right after reset of the block of the values the spec takes (rules R8, R19). -/
def State.reset : State := State.resetOf Config.taken

/-- Why a step of the model stops. The faults of NRP-64 (rule R85) are NOT here: the block goes on after them, so they
are next states (log 8). -/
inductive Fault where
  /-- Raised by `STEP` and `RUN` where the controller's registers ask for a micro-step that rule R77 does not define (a
  round key at or beyond `RKDEPTH`): by rule R82 (a) no state that a run reaches does. Safe. -/
  | undefinedMicroStep
deriving DecidableEq, Repr

/-- Why the model gives an instruction no meaning. -/
inductive Refusal where
  /-- Raised by an arm of `exec` for an instruction that has no meaning yet (none is left). Safe. -/
  | notModelled (mnemonic : String)
deriving DecidableEq, Repr

end Sys2Proof.Machine
end

