-- ==== Sys2Proof/Machine/Ops.lean ====
section
/-! DEFINITION. The named operations over the state: one update per register, the round-key memory (rule R21), the
constant ROM (rule R22), how a command ends (rule R36), raising a fault (rules R85, R89), the refusal while `ERR = 1`
(rule R90) and the reset action (rule R98). -/

namespace Sys2Proof.Machine

/-- The outcome of a step of this machine. -/
abbrev Result := Host.Outcome State Fault Refusal

/-! ### Register updates -/

/-- `S <- v`. -/
def State.setS (m : State) (v : Word64) : State := { m with s := v }

/-- `K0 <- v`. -/
def State.setK0 (m : State) (v : Word64) : State := { m with k0 := v }

/-- `K1 <- v`. -/
def State.setK1 (m : State) (v : Word64) : State := { m with k1 := v }

/-- `WK <- v`. -/
def State.setWk (m : State) (v : Word64) : State := { m with wk := v }

/-- `SBOX <- T`, the whole table (rule R13). -/
def State.setSbox (m : State) (T : Lut) : State := { m with sbox := T }

/-- `PERM <- T`, the whole table (rule R14). -/
def State.setPerm (m : State) (T : Lut) : State := { m with perm := T }

/-- The round-key memory as a whole. -/
def State.setRk (m : State) (v : Vector Word64 m.cfg.rkDepth) : State := { m with rk := v }

/-- `RCM <- v`. -/
def State.setRcm (m : State) (v : RcMode) : State := { m with rcm := v }

/-- `NR <- v`. -/
def State.setNr (m : State) (v : Byte) : State := { m with nr := v }

/-- `RI <- v`. -/
def State.setRi (m : State) (v : Byte) : State := { m with ri := v }

/-- `PH <- p`. -/
def State.setPh (m : State) (p : Phase) : State := { m with ph := p }

/-- `DONE <- v`. -/
def State.setDone (m : State) (v : Bool) : State := { m with done := v }

/-- `ERR <- 1; CAUSE <- c; FOP <- op; FA <- a` (rule R85). -/
def State.setFault (m : State) (c : Cause) (op a : Byte) : State :=
  { m with err := true, cause := c, fop := op, fa := a }

/-- What the host gets back (log 5). -/
def State.setDout (m : State) (v : Option Word64) : State := { m with dout := v }

/-- The host actions still to come (log 4). -/
def State.setHost (m : State) (as : List HostAction) : State := { m with host := as }

/-! ### The round-key memory and the constant ROM -/

/-- `RKRead(a)`, for an address below `RKDEPTH` (rule R21). -/
def rkRead (m : State) (a : Fin m.cfg.rkDepth) : Word64 := m.rk.get a

/-- `RKWrite(a, v)`, for an address below `RKDEPTH` (rule R21). -/
def rkWrite (m : State) (a : Fin m.cfg.rkDepth) (v : Word64) : State := m.setRk (m.rk.set a.val v)

/-- `RCsel(m, i)`, the constant the mode selects (rule R22). -/
def rcSel (C : Config) (md : RcMode) (i : Fin C.rkDepth) : Word64 :=
  match md with
  | .none => 0
  | .weak => C.rcWeak.get i
  | .standard => C.rcStd.get i

/-! ### How a command ends -/

/-- The command is complete and answers `v` (rule R36). -/
def answer (m : State) (v : Word64) : Result := .next (m.setDout (some v))

/-- The command is complete; it reads nothing, so it returns 0 (rule R36). -/
def complete (m : State) : Result := answer m 0

/-- `raise Fault(c)` for a word with fields `op` and `a`: the four fields of the record, `DOUT` 0, and none of the
command's other writes (rules R85, R89). -/
def enterFault (c : Cause) (op a : Byte) (m : State) : Result := complete (m.setFault c op a)

/-- `raise Fault(c)` by the command `i` (rule R85): `FOP` and `FA` are the fields of its word. -/
def raiseFault (c : Cause) (i : Instr) (m : State) : Result := enterFault c i.opcode i.fieldA m

/-- Rule R90: while `ERR = 1` a command is refused, it changes no state and returns 0; otherwise it goes on as `k`. -/
def unlessFaulted (m : State) (k : Result) : Result := if m.err then complete m else k

/-- An illegal word: `Fault(ILLEGAL_CMD)`, or refused while `ERR = 1` (rules R34, R86, R88). -/
def execIllegal (cw : CmdWord) (m : State) : Result :=
  unlessFaulted m (enterFault .illegalCmd (cwOp cw) (cwA cw) m)

/-- `reset` (rule R98): every piece of state takes its value of rule R19, unconditionally; the configuration is no
state and stays (rule R8). It returns nothing (rule
R111), and the host's later actions stay to come. -/
def resetAction (m : State) : State := (State.resetOf m.cfg).setHost m.host

end Sys2Proof.Machine
end

