-- ==== Sys2Proof/Machine/Operands.lean ====
section
/-! DEFINITION. Operands: the nibbles of a 64-bit value and the packing of a table (rules R6, R9, R13, R14), and the three
readings of the operand `A`, as a round-key index, as a round count and as a mode (rule R32). -/

namespace Sys2Proof.Machine

/-- `nib(s, i) = s[63-4i : 60-4i]` (rule R6). -/
def nib (s : Word64) (i : Fin 16) : Nibble := s.extractLsb' (60 - 4 * i.val) 4

/-- `pack(n0, ..., n15)`: the 64-bit value whose nibble `i` is `n i` (rule R9). -/
def pack (n : Fin 16 → Nibble) : Word64 :=
  n 0 ++ n 1 ++ n 2 ++ n 3 ++ n 4 ++ n 5 ++ n 6 ++ n 7 ++ n 8 ++ n 9 ++ n 10 ++ n 11 ++ n 12 ++ n 13 ++ n 14 ++ n 15

/-- A nibble as a position or a table index: its value, 0 to 15. -/
def position (v : Nibble) : Fin 16 := v.toFin

/-- `T[v]`, entry `v` of a table (rules R7, R9). -/
def entry (T : Lut) (v : Nibble) : Nibble := T.get (position v)

/-- The table packed in a 64-bit value: entry `i` is nibble `i` (rules R13, R14, R44, R45). -/
def unpackLut (d : Word64) : Lut := Vector.ofFn (nib d)

/-- A table as a 64-bit value, `pack(T[0], ..., T[15])` (rules R13, R14, R52, R53). -/
def packLut (T : Lut) : Word64 := pack T.get

/-- `A` as a round-key index, if `0 <= A < RKDEPTH` (rule R32); `depth` is `RKDEPTH`. -/
def indexOperand (depth : Nat) (a : Byte) : Option (Fin depth) :=
  if h : a.toNat < depth then some ⟨a.toNat, h⟩ else none

/-- Is `A` a round count, `1 <= A <= RKDEPTH + 1`? (rule R32) -/
def isCount (depth : Nat) (a : Byte) : Bool := decide (1 ≤ a.toNat) && decide (a.toNat ≤ depth + 1)

/-- `A` as a mode, if `0 <= A <= 2` (rules R16, R32, R47). -/
def modeOperand (a : Byte) : Option RcMode :=
  if a = 0 then some .none
  else if a = 1 then some .weak
  else if a = 2 then some .standard
  else none

/-- A command with an operand that has a range: outside it `Fault(BAD_OPERAND)`, before any write (rules R32, R86). -/
def withOperand {α : Type} (x : Option α) (i : Instr) (m : State) (k : α → Result) : Result :=
  match x with
  | none => raiseFault .badOperand i m
  | some v => k v

/-- A command with a round count: outside its range `Fault(BAD_OPERAND)`, before any write (rules R32, R86). -/
def withCount (a : Byte) (i : Instr) (m : State) (k : Result) : Result :=
  if isCount m.cfg.rkDepth a then k else raiseFault .badOperand i m

end Sys2Proof.Machine
end

