-- ==== Sys2Proof/Machine/Flags.lean ====
section
/-! DEFINITION. The codes of the control and status fields and the 64-bit status word (rules R16, R17, R18, R55, R86).
NRP-64 has no arithmetic condition code (rule R18): no command computes a flag from its result. -/

namespace Sys2Proof.Machine

/-- The 2-bit encoding of `RCM` (rule R16). -/
def RcMode.code : RcMode → BitVec 2
  | .none => 0
  | .weak => 1
  | .standard => 2

/-- The 3-bit encoding of `PH` (rule R17). -/
def Phase.code : Phase → BitVec 3
  | .idle => 0
  | .win => 1
  | .sub => 2
  | .shf => 3
  | .mix => 4
  | .ak => 5
  | .fsub => 6
  | .wout => 7

/-- The 4-bit encoding of `CAUSE` (rule R86). -/
def Cause.code : Cause → BitVec 4
  | .none => 0
  | .illegalCmd => 1
  | .badOperand => 2
  | .badSequence => 3

/-- `STATUS = {0[15:0], FOP, FA, NR, RI, 0[4:0], PH, RCM, DONE, ERR, CAUSE}` (rules R18, R55). -/
def status (m : State) : Word64 :=
  0#16 ++ m.fop ++ m.fa ++ m.nr ++ m.ri ++ 0#5 ++ m.ph.code ++ m.rcm.code ++ BitVec.ofBool m.done ++
    BitVec.ofBool m.err ++ m.cause.code

end Sys2Proof.Machine
end

