-- ==== Sys2Proof/Machine/Cipher.lean ====
section
/-! DEFINITION. The cipher's pure functions: the layers (rules R56 to R58), the round function (rule R60), the key schedule
(rule R70), the encryption (rule R75) and its sequence of layers (rule R76). -/

namespace Sys2Proof.Machine

/-- Rule R56: nibble `i` of the result is `T[nib(s,i)]`. -/
def substitute (s : Word64) (T : Lut) : Word64 := pack fun i => entry T (nib s i)

/-- Rule R57: nibble `i` of the result is the INPUT's nibble `P[i]`. -/
def shuffle (s : Word64) (P : Lut) : Word64 := pack fun i => nib s (position (P.get i))

/-- The positions of the column of position `i`: `4c, 4c+1, 4c+2, 4c+3` where `c = i / 4` (rule R58). -/
def column (i : Fin 16) : List (Fin 16) := (List.finRange 16).filter fun j => j.val / 4 = i.val / 4

/-- Rule R58: nibble `i` of the result is the XOR of the other nibbles of its column. -/
def diffuse (s : Word64) : Word64 :=
  pack fun i => ((column i).filter (· ≠ i)).foldl (fun acc j => acc ^^^ nib s j) 0

/-- Rule R60: one full round. -/
def roundFunction (s : Word64) (T P : Lut) (k : Word64) : Word64 := diffuse (shuffle (substitute s T) P) ^^^ k

/-- `rk(i)` of rule R70: the half-key of the index's parity, XORed with the constant the mode selects. -/
def roundKey (C : Config) (k0 k1 : Word64) (md : RcMode) (i : Fin C.rkDepth) : Word64 :=
  (if i.val % 2 = 0 then k0 else k1) ^^^ rcSel C md i

/-- Rule R70: the `n - 1` round keys of an `n`-round encryption, for a round count `1 <= n <= RKDEPTH + 1`. -/
def keySchedule (C : Config) (k0 k1 : Word64) (md : RcMode) (n : Nat) : List Word64 :=
  ((List.finRange C.rkDepth).take (n - 1)).map (roundKey C k0 k1 md)

/-- Rule R75: full encryption of one block with at least `n - 1` round keys. -/
def encrypt (p : Word64) (n : Nat) (T P : Lut) (rk : List Word64) (wk : Word64) : Word64 :=
  substitute ((rk.take (n - 1)).foldl (fun s k => roundFunction s T P k) (p ^^^ wk)) T ^^^ wk

/-- A layer of an encryption (rule R76; glossary "Layer"), with `depth` round-key words. -/
inductive Layer (depth : Nat) where
  /-- XOR whitening key. -/
  | whiten
  /-- Substitute. -/
  | substitute
  /-- Shuffle. -/
  | shuffle
  /-- Diffuse. -/
  | diffuse
  /-- XOR round key `r`. -/
  | addKey (r : Fin depth)
deriving DecidableEq, Repr

/-- Rule R76: the layers of an `n`-round encryption, in order, for a round count `1 <= n <= RKDEPTH + 1`. -/
def layerSequence (depth n : Nat) : List (Layer depth) :=
  [.whiten] ++
    ((List.finRange depth).take (n - 1)).flatMap (fun r => [.substitute, .shuffle, .diffuse, .addKey r]) ++
    [.substitute, .whiten]

/-- One layer applied to `v`, with the tables and keys of `m`. -/
def applyLayer (m : State) (v : Word64) : Layer m.cfg.rkDepth → Word64
  | .whiten => v ^^^ m.wk
  | .substitute => Sys2Proof.Machine.substitute v m.sbox
  | .shuffle => Sys2Proof.Machine.shuffle v m.perm
  | .diffuse => Sys2Proof.Machine.diffuse v
  | .addKey r => v ^^^ rkRead m r

end Sys2Proof.Machine
end

