-- ==== Sys2Proof/Machine/Controller.lean ====
section
/-! DEFINITION. The multi-round controller (43_controller.md): the micro-step (rule R77) and the commands `START`, `STEP`,
`RUN`, `ENC` (rules R78 to R81). -/

namespace Sys2Proof.Machine

/-- The phase after the XOR of a round key: 6 if `RI + 1 = NR - 1`, else 2 (rule R77, row 5), with the values `RI` and
`NR` have before the step, as numbers (log 9). -/
def phaseAfterKey (nr ri : Byte) : Phase := if ri.toNat + 1 = nr.toNat - 1 then .fsub else .sub

/-- `advance`, the controller's micro-step (rule R77): the layer that `PH` names, and the move to the next. `none` where
the rule defines no micro-step: `PH = 0`, or a round key at or beyond `RKDEPTH` (log 8). -/
def advance (m : State) : Option State :=
  match m.ph with
  | .idle => none
  | .win => some ((m.setS (m.s ^^^ m.wk)).setPh (if m.nr = 1 then .fsub else .sub))
  | .sub => some ((m.setS (substitute m.s m.sbox)).setPh .shf)
  | .shf => some ((m.setS (shuffle m.s m.perm)).setPh .mix)
  | .mix => some ((m.setS (diffuse m.s)).setPh .ak)
  | .ak => (indexOperand m.cfg.rkDepth m.ri).map fun i =>
      ((m.setS (m.s ^^^ rkRead m i)).setRi (m.ri + 1)).setPh (phaseAfterKey m.nr m.ri)
  | .fsub => some ((m.setS (substitute m.s m.sbox)).setPh .wout)
  | .wout => some (((m.setS (m.s ^^^ m.wk)).setDone true).setPh .idle)

/-- The most micro-steps an encryption takes: `4*RKDEPTH + 3` (rules R80, R105). -/
def maxMicroSteps (depth : Nat) : Nat := 4 * depth + 3

/-- `while PH != 0: advance` (rule R80), at most `fuel` times; `none` where a micro-step is not defined or the loop has
not ended by then, which no state that a run reaches shows (log 8). -/
def advanceAll : Nat → State → Option State
  | 0, m => if m.ph = .idle then some m else none
  | fuel + 1, m => if m.ph = .idle then some m else (advance m).bind (advanceAll fuel)

/-- `NR <- A; RI <- 0; PH <- 1; DONE <- 0` (rules R78, R81). -/
def startEncryption (a : Byte) (m : State) : State := (((m.setNr a).setRi 0).setPh .win).setDone false

/-- The end of a command that ran micro-steps: complete, or the model's stop (log 8). -/
def completeSteps (x : Option State) : Result :=
  match x with
  | none => .fault .undefinedMicroStep
  | some t => complete t

/-- A command that needs an encryption in progress: `Fault(BAD_SEQUENCE)` if `PH = 0` (rules R79, R80, R86). -/
def whileBusy (i : Instr) (m : State) (k : Result) : Result :=
  if m.ph = .idle then raiseFault .badSequence i m else k

/-- `START n` (rule R78): legal in every phase; neither `S` nor `RK` is read or changed. -/
def execStart (a : Byte) (m : State) : Result :=
  unlessFaulted m (withCount a (.start a) m (complete (startEncryption a m)))

/-- `STEP` (rule R79). -/
def execStep (m : State) : Result := unlessFaulted m (whileBusy .step m (completeSteps (advance m)))

/-- `RUN` (rule R80). -/
def execRun (m : State) : Result :=
  unlessFaulted m (whileBusy .run m (completeSteps (advanceAll (maxMicroSteps m.cfg.rkDepth) m)))

/-- `ENC n` (rule R81): as `START` and then as `RUN`, in one command. -/
def execEnc (a : Byte) (m : State) : Result :=
  unlessFaulted m (withCount a (.enc a) m (completeSteps (advanceAll (maxMicroSteps m.cfg.rkDepth) (startEncryption a m))))

end Sys2Proof.Machine
end

