-- ==== Sys2Proof/Machine/DataMovement.lean ====
section
/-! DEFINITION. The sixteen load, configuration and read commands (40_data_movement.md rules R40 to R55). -/

namespace Sys2Proof.Machine

/-! ### Load commands -/

/-- `LDS #d` (rule R40). -/
def execLds (d : Word64) (m : State) : Result := unlessFaulted m (complete (m.setS d))

/-- `LDK0 #d` (rule R41): `RK` stays as it is (rule R73). -/
def execLdk0 (d : Word64) (m : State) : Result := unlessFaulted m (complete (m.setK0 d))

/-- `LDK1 #d` (rule R42): `RK` stays as it is (rule R73). -/
def execLdk1 (d : Word64) (m : State) : Result := unlessFaulted m (complete (m.setK1 d))

/-- `LDWK #d` (rule R43). -/
def execLdwk (d : Word64) (m : State) : Result := unlessFaulted m (complete (m.setWk d))

/-- `LDSB #d` (rule R44): all 16 entries at once, no check. -/
def execLdsb (d : Word64) (m : State) : Result := unlessFaulted m (complete (m.setSbox (unpackLut d)))

/-- `LDPM #d` (rule R45): all 16 entries at once, no check. -/
def execLdpm (d : Word64) (m : State) : Result := unlessFaulted m (complete (m.setPerm (unpackLut d)))

/-- `LDRK a, #d` (rule R46). -/
def execLdrk (a : Byte) (d : Word64) (m : State) : Result :=
  unlessFaulted m (withOperand (indexOperand m.cfg.rkDepth a) (.ldrk a d) m fun i => complete (rkWrite m i d))

/-- `SETM a` (rule R47): `RK` stays as it is (rule R73). -/
def execSetm (a : Byte) (m : State) : Result :=
  unlessFaulted m (withOperand (modeOperand a) (.setm a) m fun md => complete (m.setRcm md))

/-! ### Read commands -/

/-- `RDS` (rule R48). -/
def execRds (m : State) : Result := unlessFaulted m (answer m m.s)

/-- `RDK0` (rule R49). -/
def execRdk0 (m : State) : Result := unlessFaulted m (answer m m.k0)

/-- `RDK1` (rule R50). -/
def execRdk1 (m : State) : Result := unlessFaulted m (answer m m.k1)

/-- `RDWK` (rule R51). -/
def execRdwk (m : State) : Result := unlessFaulted m (answer m m.wk)

/-- `RDSB` (rule R52). -/
def execRdsb (m : State) : Result := unlessFaulted m (answer m (packLut m.sbox))

/-- `RDPM` (rule R53). -/
def execRdpm (m : State) : Result := unlessFaulted m (answer m (packLut m.perm))

/-- `RDRK a` (rule R54). -/
def execRdrk (a : Byte) (m : State) : Result :=
  unlessFaulted m (withOperand (indexOperand m.cfg.rkDepth a) (.rdrk a) m fun i => answer m (rkRead m i))

/-- `RDST` (rule R55): the one command that still answers while `ERR = 1` (rule R90). -/
def execRdst (m : State) : Result := answer m (status m)

end Sys2Proof.Machine
end

