-- ==== Sys2Proof/Machine/KeySchedule.lean ====
section
/-! DEFINITION. The key-schedule command (42_key_schedule.md rules R72, R73). -/

namespace Sys2Proof.Machine

/-- `RK[i] <- ks[i]` for every `i` the list has; the other words keep their value (rule R72). -/
def writeKeys {depth : Nat} (rk : Vector Word64 depth) (ks : List Word64) : Vector Word64 depth :=
  Vector.ofFn fun i => ks[i.val]?.getD (rk.get i)

/-- `KSCH n` (rule R72): `RK[0..n-2] <- key_schedule(K0, K1, RCM, n)`, atomically (rule R28). -/
def execKsch (a : Byte) (m : State) : Result :=
  unlessFaulted m (withCount a (.ksch a) m
    (complete (m.setRk (writeKeys m.rk (keySchedule m.cfg m.k0 m.k1 m.rcm a.toNat)))))

end Sys2Proof.Machine
end

