-- ==== Sys2Proof/Machine/Layers.lean ====
section
/-! DEFINITION. The six single-layer commands (41_layer_ops.md rules R61 to R66). They neither read nor write `NR`, `RI`,
`PH` or `DONE`, and are legal in every phase. -/

namespace Sys2Proof.Machine

/-- `SUB` (rule R61). -/
def execSub (m : State) : Result := unlessFaulted m (complete (m.setS (substitute m.s m.sbox)))

/-- `SHF` (rule R62). -/
def execShf (m : State) : Result := unlessFaulted m (complete (m.setS (shuffle m.s m.perm)))

/-- `MIX` (rule R63). -/
def execMix (m : State) : Result := unlessFaulted m (complete (m.setS (diffuse m.s)))

/-- `AK a` (rule R64). -/
def execAk (a : Byte) (m : State) : Result :=
  unlessFaulted m (withOperand (indexOperand m.cfg.rkDepth a) (.ak a) m fun i => complete (m.setS (m.s ^^^ rkRead m i)))

/-- `WHT` (rule R65). -/
def execWht (m : State) : Result := unlessFaulted m (complete (m.setS (m.s ^^^ m.wk)))

/-- `RND a` (rule R66). -/
def execRnd (a : Byte) (m : State) : Result :=
  unlessFaulted m (withOperand (indexOperand m.cfg.rkDepth a) (.rnd a) m fun i =>
    complete (m.setS (roundFunction m.s m.sbox m.perm (rkRead m i))))

end Sys2Proof.Machine
end

