-- ==== Sys2Proof/Machine/Dispatch.lean ====
section
/-! DEFINITION. One arm per command: each is one call of its meaning. -/

namespace Sys2Proof.Machine

def exec (i : Instr) (s : State) : Host.Outcome State Fault Refusal :=
  match i with
  | .lds d => Sys2Proof.Machine.execLds d s
  | .ldk0 d => Sys2Proof.Machine.execLdk0 d s
  | .ldk1 d => Sys2Proof.Machine.execLdk1 d s
  | .ldwk d => Sys2Proof.Machine.execLdwk d s
  | .ldsb d => Sys2Proof.Machine.execLdsb d s
  | .ldpm d => Sys2Proof.Machine.execLdpm d s
  | .ldrk a d => Sys2Proof.Machine.execLdrk a d s
  | .setm a => Sys2Proof.Machine.execSetm a s
  | .rds => Sys2Proof.Machine.execRds s
  | .rdk0 => Sys2Proof.Machine.execRdk0 s
  | .rdk1 => Sys2Proof.Machine.execRdk1 s
  | .rdwk => Sys2Proof.Machine.execRdwk s
  | .rdsb => Sys2Proof.Machine.execRdsb s
  | .rdpm => Sys2Proof.Machine.execRdpm s
  | .rdrk a => Sys2Proof.Machine.execRdrk a s
  | .rdst => Sys2Proof.Machine.execRdst s
  | .sub => Sys2Proof.Machine.execSub s
  | .shf => Sys2Proof.Machine.execShf s
  | .mix => Sys2Proof.Machine.execMix s
  | .ak a => Sys2Proof.Machine.execAk a s
  | .wht => Sys2Proof.Machine.execWht s
  | .rnd a => Sys2Proof.Machine.execRnd a s
  | .ksch a => Sys2Proof.Machine.execKsch a s
  | .start a => Sys2Proof.Machine.execStart a s
  | .step => Sys2Proof.Machine.execStep s
  | .run => Sys2Proof.Machine.execRun s
  | .enc a => Sys2Proof.Machine.execEnc a s

end Sys2Proof.Machine
end

