-- ==== Sys2Proof/Machine/Step.lean ====
section
/-! DEFINITION. One step: the block performs the host's next action (rules R28, R110). With none to perform it holds its
state (rules R92, R97, R99). -/

namespace Sys2Proof.Machine

/-- The word the host issued, with the actions after it still to come: decoded, then executed (rules R37, R88). -/
def runWord (cw : CmdWord) (m : State) : Host.Outcome State Fault Refusal :=
  match decode cw with
  | .cmd i => exec i m
  | .illegal _ => execIllegal cw m

/-- One step of the machine: one host action, atomically (rule R28; log 4). -/
def step (s : State) : Host.Outcome State Fault Refusal :=
  match s.host with
  | [] => .next s
  | .reset :: rest => .next (resetAction (s.setHost rest))
  | .issue cw :: rest => runWord cw (s.setHost rest)

/-- `s` with the host about to issue the word whose bits are `w`, numbered as in `decodeTableWord`: the very next step
runs it (log 4). The fetch needs nothing else: the block is idle after reset and any command may be the first (rule
R99). -/
def State.withFetchWord (s : State) (nbits w : Nat) : State :=
  s.setHost (.issue (BitVec.ofNat 80 (w % 2 ^ nbits)) :: s.host)

end Sys2Proof.Machine
end

