-- ==== Sys2Proof/Machine/Assembler.lean ====
section
/-! DEFINITION. The assembler of 30_encoding.md: pseudo-instructions and their expansions (rule R39), and the syntax of a
line (rule R38). It is no part of the block: a line stands for the commands a host issues. -/

namespace Sys2Proof.Machine

/-- The three pseudo-instructions of rule R39. -/
inductive Pseudo where
  /-- `LDKEYS #k0, #k1`. -/
  | ldkeys (k0 k1 : Word64)
  /-- `ROUNDX a`. -/
  | roundx (a : Byte)
  /-- `ENCS n`. -/
  | encs (n : Byte)
deriving DecidableEq, Repr

/-- What a pseudo-instruction expands to (rule R39). -/
def Pseudo.expand : Pseudo → List Instr
  | .ldkeys k0 k1 => [.ldk0 k0, .ldk1 k1]
  | .roundx a => [.sub, .shf, .mix, .ak a]
  | .encs n => [.start n, .run]

/-- The mnemonics of rule R33, with their opcodes. -/
def mnemonicTable : List (List Char × Byte) :=
  [("LDS".toList, 0x01), ("LDK0".toList, 0x02), ("LDK1".toList, 0x03), ("LDWK".toList, 0x04),
   ("LDSB".toList, 0x05), ("LDPM".toList, 0x06), ("LDRK".toList, 0x07), ("SETM".toList, 0x08)] ++
  [("RDS".toList, 0x11), ("RDK0".toList, 0x12), ("RDK1".toList, 0x13), ("RDWK".toList, 0x14),
   ("RDSB".toList, 0x15), ("RDPM".toList, 0x16), ("RDRK".toList, 0x17), ("RDST".toList, 0x18)] ++
  [("SUB".toList, 0x20), ("SHF".toList, 0x21), ("MIX".toList, 0x22), ("AK".toList, 0x23), ("WHT".toList, 0x24),
   ("RND".toList, 0x25), ("KSCH".toList, 0x30)] ++
  [("START".toList, 0x40), ("STEP".toList, 0x41), ("RUN".toList, 0x42), ("ENC".toList, 0x43)]

/-- The value of a hexadecimal digit, in either letter case (log 15). -/
def hexDigit (c : Char) : Option Nat :=
  let n := c.toNat
  if 48 ≤ n ∧ n ≤ 57 then some (n - 48)
  else if 65 ≤ n ∧ n ≤ 70 then some (n - 55)
  else if 97 ≤ n ∧ n ≤ 102 then some (n - 87)
  else none

/-- The value of digits in a base, most significant first. -/
def numeral (base : Nat) (digits : List Nat) : Nat := digits.foldl (fun acc d => base * acc + d) 0

/-- The text without the blanks around it. -/
def trimBlanks (cs : List Char) : List Char :=
  ((cs.dropWhile (· = ' ')).reverse.dropWhile (· = ' ')).reverse

/-- A data operand: `#0x` and exactly 16 hexadecimal digits, or `#[`, 16 digits separated by blanks, `]`, entry 0 first
(rule R38). DESIGN CHOICE (log 15): the rule gives the second form for a table and does not say whether another `D` may be
written so; the model accepts it for every `D`. -/
def parseData (cs : List Char) : Option Word64 :=
  let digits : Option (List Char) :=
    match cs with
    | '#' :: '0' :: 'x' :: ds => some ds
    | '#' :: '[' :: ds =>
      if ds.getLast? = some ']' ∧ (ds.dropLast.splitOnP (· = ' ')).all (·.length ≤ 1) then
        some (ds.dropLast.filter (· ≠ ' '))
      else none
    | _ => none
  match digits.bind fun ds => ds.mapM hexDigit with
  | some ds => if ds.length = 16 then some (BitVec.ofNat 64 (numeral 16 ds)) else none
  | none => none

/-- An `A` operand: a decimal number that fits 8 bits (rules R32, R38). -/
def parseNumber (cs : List Char) : Option Byte :=
  match cs.mapM hexDigit with
  | some ds =>
    if ds ≠ [] ∧ ds.all (· < 10) ∧ numeral 10 ds < 256 then some (BitVec.ofNat 8 (numeral 10 ds)) else none
  | none => none

/-- The `A` operand of `SETM`: a number, or one of the names `none`, `weak`, `standard` (rule R38). -/
def parseMode (cs : List Char) : Option Byte :=
  if cs = "none".toList then some 0
  else if cs = "weak".toList then some 1
  else if cs = "standard".toList then some 2
  else parseNumber cs

/-- A command with its operands, `A` first (rule R38). -/
def parseCommand (op : Byte) (sh : Shape) (operands : List (List Char)) : Option Instr :=
  match sh, operands with
  | .n i, [] => some i
  | .a f, [x] => (if op = 0x08 then parseMode x else parseNumber x).map f
  | .d f, [y] => (parseData y).map f
  | .ad f, [x, y] => (parseNumber x).bind fun a => (parseData y).map (f a)
  | _, _ => none

/-- A pseudo-instruction with its operands (rule R39). -/
def parsePseudo (name : List Char) (operands : List (List Char)) : Option Pseudo :=
  match operands with
  | [x, y] =>
    if name = "LDKEYS".toList then (parseData x).bind fun k0 => (parseData y).map (Pseudo.ldkeys k0) else none
  | [x] =>
    if name = "ROUNDX".toList then (parseNumber x).map Pseudo.roundx
    else if name = "ENCS".toList then (parseNumber x).map Pseudo.encs
    else none
  | _ => none

/-- The commands one line of assembly stands for: a mnemonic in upper case, then its operands separated by a comma; `;`
starts a comment; an empty line stands for none; `none` where the line is not of that form (rules R38, R39). -/
def assembleLine (line : List Char) : Option (List Instr) :=
  let text := trimBlanks (line.takeWhile (· ≠ ';'))
  let name := text.takeWhile (· ≠ ' ')
  let rest := trimBlanks (text.dropWhile (· ≠ ' '))
  let operands := if rest = [] then [] else (rest.splitOnP (· = ',')).map trimBlanks
  if text = [] then some []
  else
    match mnemonicTable.lookup name with
    | some op => (shapeOf op).bind fun sh => (parseCommand op sh operands).map ([·])
    | none => (parsePseudo name operands).map Pseudo.expand

end Sys2Proof.Machine
end

