-- ==== Sys2Proof/Machine/Run.lean ====
section
/-! DEFINITION. A run and how it ends (rule R106): a finite sequence of host actions that starts with `reset`, when it
has gone wrong, and when an encryption within it is complete. -/

namespace Sys2Proof.Machine

/-- One host action, on its own (rules R4, R110). -/
def perform (a : HostAction) (m : State) : Host.Outcome State Fault Refusal := step (m.setHost [a])

/-- The word is a `START`, whether the block executes it, faults on it or refuses it (rule R106; log 19). -/
def issuesStart (cw : CmdWord) : Bool :=
  match decode cw with
  | .cmd (.start _) => true
  | _ => false

/-- The word, which left the state `t`, set `DONE`: a `STEP`, `RUN` or `ENC` that did not fault, was not refused, and
applied the output whitening, which alone leads to phase 0 (rules R18, R77). -/
def setsDone (cw : CmdWord) (t : State) : Bool :=
  match decode cw with
  | .cmd .step => !t.err && t.ph == .idle
  | .cmd .run => !t.err && t.ph == .idle
  | .cmd (.enc _) => !t.err && t.ph == .idle
  | _ => false

/-- What rule R106 asks of a run so far: the state, and whether `DONE` has been set since the last `reset` and no
`START` has been issued since. The second is no state of the block: it is read off the host's actions. -/
structure Progress where
  /-- The state the actions so far have left. -/
  state : State
  /-- `DONE` was set, and no `START` has been issued since that. -/
  doneStands : Bool
deriving DecidableEq, Repr

/-- `Progress.doneStands` after the action `a`, which left the state `t`. -/
def doneStandsAfter (a : HostAction) (t : State) (before : Bool) : Bool :=
  match a with
  | .reset => false
  | .issue cw => if issuesStart cw then false else setsDone cw t || before

/-- The host's actions, one after another; `none` where the model stops (log 8). -/
def runFrom : List HostAction → Progress → Option Progress
  | [], p => some p
  | a :: as, p =>
    match perform a p.state with
    | .next t => runFrom as { state := t, doneStands := doneStandsAfter a t p.doneStands }
    | .fault _ => none
    | .refused _ => none

/-- The run of `reset` and then the actions `as`, on a block of configuration `C`. The state before that `reset` is
outside the model (log 11), and `reset` reads none of it. -/
def runOf (C : Config) (as : List HostAction) : Option Progress :=
  runFrom (.reset :: as) { state := State.resetOf C, doneStands := false }

/-- The run has gone wrong exactly when `ERR = 1` in its final state (rule R106). -/
abbrev Progress.goneWrong (p : Progress) : Prop := p.state.err = true

/-- The encryption is complete exactly when `PH = 0` and `DONE = 1` and no `START` has been issued since that `DONE` was
set (rule R106). -/
abbrev Progress.encryptionComplete (p : Progress) : Prop :=
  p.state.ph = .idle ∧ p.state.done = true ∧ p.doneStands = true

end Sys2Proof.Machine
end

