-- ==== Sys2Proof/Safety.lean ====
section
/-! DEFINITION. The terms claims use beside those of Machine/Run.lean (when a run has gone wrong, when an encryption is
complete): the invariant of the controller and of the fault record (rules R18, R82, R86), the block without its host
interface, the state after a fault (rule R89), what the words of one opcode decode to, and a sequence of commands as the
fold of their meanings (rule R28). -/

namespace Sys2Proof.Machine

/-- The controller's registers are those of some point of an encryption, or of none since reset (rule R82 (a), made
inductive; log 16). -/
abbrev State.ControllerInv (m : State) : Prop :=
  (m.ph = .win → m.ri = 0 ∧ 1 ≤ m.nr.toNat ∧ m.nr.toNat ≤ m.cfg.rkDepth + 1) ∧
  (m.ph = .sub ∨ m.ph = .shf ∨ m.ph = .mix ∨ m.ph = .ak →
    m.ri.toNat + 2 ≤ m.nr.toNat ∧ m.nr.toNat ≤ m.cfg.rkDepth + 1) ∧
  (m.ph = .fsub ∨ m.ph = .wout → m.ri.toNat + 1 = m.nr.toNat ∧ m.nr.toNat ≤ m.cfg.rkDepth + 1) ∧
  (m.ph = .idle →
    (m.done = false ∧ m.nr = 0 ∧ m.ri = 0) ∨
    (m.done = true ∧ m.ri.toNat + 1 = m.nr.toNat ∧ m.nr.toNat ≤ m.cfg.rkDepth + 1)) ∧
  (m.ph ≠ .idle → m.done = false)

/-- `A` is outside the range the opcode gives it, with `depth` round-key words (rules R32, R86). -/
abbrev OperandOutOfRange (depth : Nat) (op a : Byte) : Prop :=
  ((op = 0x07 ∨ op = 0x17 ∨ op = 0x23 ∨ op = 0x25) ∧ depth ≤ a.toNat) ∨
  ((op = 0x30 ∨ op = 0x40 ∨ op = 0x43) ∧ (a.toNat = 0 ∨ depth + 1 < a.toNat)) ∨
  (op = 0x08 ∧ 2 < a.toNat)

/-- The fault record is empty while `ERR = 0`, and otherwise says what a fault of its cause says (rules R18, R86, R89;
log 16). -/
abbrev State.RecordInv (m : State) : Prop :=
  (m.err = false → m.cause = .none ∧ m.fop = 0 ∧ m.fa = 0) ∧
  (m.err = true → m.cause ≠ .none) ∧
  (m.cause = .illegalCmd → m.fop ≠ 0x07) ∧
  (m.cause = .badOperand → OperandOutOfRange m.cfg.rkDepth m.fop m.fa) ∧
  (m.cause = .badSequence → (m.fop = 0x41 ∨ m.fop = 0x42) ∧ m.fa = 0 ∧ m.ph = .idle)

/-- The invariant of the machine. -/
abbrev State.Inv (m : State) : Prop := m.ControllerInv ∧ m.RecordInv

/-- The block without the model's host interface: its configuration and the sixteen pieces of rule R20's tuple. -/
def State.block (m : State) : State := (m.setDout none).setHost []

/-- The state after `raise Fault(c)` by a word with fields `op` and `a`: the four fields of the record and the response,
everything else as before (rules R85, R89). -/
def State.faulted (m : State) (c : Cause) (op a : Byte) : State :=
  { m with err := true, cause := c, fop := op, fa := a, dout := some 0 }

/-- While `ERR = 0`, issuing the word with these fields raises `ILLEGAL_CMD` (rules R34, R85, R86). -/
def IllegalWord (op a : Byte) (d : Word64) : Prop :=
  ∀ (m : State) (rest : List HostAction), m.host = .issue (cmdWord op a d) :: rest → m.err = false →
    step m = .next ({ m with host := rest }.faulted .illegalCmd op a)

/-- The words with opcode `op` are the command `i` of format N, or illegal, and an illegal one raises `ILLEGAL_CMD`
(rules R31, R33, R34). -/
def EncodesN (op : Byte) (i : Instr) : Prop :=
  ∀ (a : Byte) (d : Word64),
    (decode (cmdWord op a d) = if a = 0 then (if d = 0 then .cmd i else .illegal .reservedD) else .illegal .reservedA) ∧
    (a ≠ 0 ∨ d ≠ 0 → IllegalWord op a d)

/-- The words with opcode `op` are a command of format A, or illegal (rules R31, R33, R34). -/
def EncodesA (op : Byte) (c : Byte → Instr) : Prop :=
  ∀ (a : Byte) (d : Word64),
    (decode (cmdWord op a d) = if d = 0 then .cmd (c a) else .illegal .reservedD) ∧ (d ≠ 0 → IllegalWord op a d)

/-- The words with opcode `op` are a command of format D, or illegal (rules R31, R33, R34). -/
def EncodesD (op : Byte) (c : Word64 → Instr) : Prop :=
  ∀ (a : Byte) (d : Word64),
    (decode (cmdWord op a d) = if a = 0 then .cmd (c d) else .illegal .reservedA) ∧ (a ≠ 0 → IllegalWord op a d)

/-- The words with opcode `op` are a command of format AD (rules R31, R33, R34). -/
def EncodesAD (op : Byte) (c : Byte → Word64 → Instr) : Prop :=
  ∀ (a : Byte) (d : Word64), decode (cmdWord op a d) = .cmd (c a d)

/-- The commands of a list, one after another, each on the state the one before it leaves (rule R28). -/
def runCommands : List Instr → State → Result
  | [], m => .next m
  | i :: is, m =>
    match exec i m with
    | .next t => runCommands is t
    | .fault r => .fault r
    | .refused r => .refused r

end Sys2Proof.Machine
end

