-- ==== Sys2Proof/Certificates/Slice0/Obligations.lean ====
section
/-! DEFINITION. The statements for the provers, in the order of OBLIGATIONS.json. `dout` and `host` are the model's own
fields (log 4, log 5): a response of 0 is written `dout := some 0`. A statement `exec i m = .next { m with … }` is also
the frame of `i`: every field not named is as before. -/

open Sys2Proof Sys2Proof.Machine

/-! ### Encoding (30_encoding.md) -/

/-- Rule R37: decoding the word of any command, with any operands, gives that command. -/
def Obligations.DecodeOfEncode : Prop := ∀ i : Instr, decode (encode i) = .cmd i

/-- Rule R37, the other direction: a word that decodes to a command is the word of that command, so every well-formed
word has one meaning. -/
def Obligations.EncodeOfDecode : Prop := ∀ (cw : CmdWord) (i : Instr), decode cw = .cmd i → encode i = cw

/-- Rules R31 and R34: the well-formed words, opcode by opcode, and that they are the ones that decode to a command. -/
def Obligations.WellFormedWords : Prop :=
  (∀ (op a : Byte) (d : Word64), wellFormedWord (cmdWord op a d) = true ↔
    (op ∈ [0x11, 0x12, 0x13, 0x14, 0x15, 0x16, 0x18, 0x20, 0x21, 0x22, 0x24, 0x41, 0x42] ∧ a = 0 ∧ d = 0) ∨
    (op ∈ [0x08, 0x17, 0x23, 0x25, 0x30, 0x40, 0x43] ∧ d = 0) ∨
    (op ∈ [0x01, 0x02, 0x03, 0x04, 0x05, 0x06] ∧ a = 0) ∨
    op = 0x07) ∧
  ∀ cw : CmdWord, wellFormedWord cw = true ↔ ∃ i, decode cw = .cmd i

/-- Rule R34: every word that is not well formed is illegal, 229 opcodes are unlisted, an illegal word raises
`ILLEGAL_CMD`, and a well-formed word with an operand out of its range raises `BAD_OPERAND` instead. -/
def Obligations.IllegalWordsFault : Prop :=
  ((List.range 256).filter fun n => (formatOf (BitVec.ofNat 8 n)).isNone).length = 229 ∧
  (∀ cw : CmdWord, wellFormedWord cw = false ↔ ∃ why, decode cw = .illegal why) ∧
  (∀ (m : State) (cw : CmdWord) (rest : List HostAction),
    m.host = .issue cw :: rest → m.err = false → wellFormedWord cw = false →
    step m = .next ({ m with host := rest }.faulted .illegalCmd (cw.extractLsb' 72 8) (cw.extractLsb' 64 8))) ∧
  ∀ (m : State) (i : Instr) (rest : List HostAction),
    m.host = .issue (encode i) :: rest → m.err = false → OperandOutOfRange m.cfg.rkDepth i.opcode i.fieldA →
    step m = .next ({ m with host := rest }.faulted .badOperand i.opcode i.fieldA)

/-- Words of the spec's examples, written out from rule R30's layout, decode to the commands they stand for (rules R38,
R40 to R81; 95_test_vectors.md 2.1). -/
def Obligations.ExampleWordsDecode : Prop :=
  decode 0x01000123456789ABCDEF = .cmd (.lds 0x0123456789ABCDEF) ∧
  decode 0x070300000000000000FF = .cmd (.ldrk 3 0xFF) ∧
  decode 0x08020000000000000000 = .cmd (.setm 2) ∧
  decode 0x11000000000000000000 = .cmd .rds ∧
  decode 0x25000000000000000000 = .cmd (.rnd 0) ∧
  decode 0x30040000000000000000 = .cmd (.ksch 4) ∧
  decode 0x43100000000000000000 = .cmd (.enc 16) ∧
  decode 0x23000000000000000001 = .illegal .reservedD

/-- Rules R28 and R110: a step performs the host's next action and nothing else; a well-formed word is run as the
command it decodes to; with no action to perform the state does not change (rule R92); the word placed by
`withFetchWord` is the next to run. -/
def Obligations.StepRunsTheDecodedCommand : Prop :=
  (∀ (m : State) (cw : CmdWord) (rest : List HostAction) (i : Instr),
    m.host = .issue cw :: rest → decode cw = .cmd i → step m = exec i { m with host := rest }) ∧
  (∀ m : State, m.host = [] → step m = .next m) ∧
  ∀ (m : State) (nbits w : Nat) (i : Instr), decodeTableWord nbits w = some i →
    step (m.withFetchWord nbits w) = exec i m

/-- Rule R24: a command word sent as bytes is read back, `OP` first and `A` second, and byte `k` of a 64-bit value holds
nibbles `2k` and `2k+1`. -/
def Obligations.TransportBytesRoundTrip : Prop :=
  (∀ (cw : CmdWord) (rest : List Byte), cmdWordOfBytes (bytesOfCmdWord cw ++ rest) = some (cw, rest)) ∧
  (∀ (op a : Byte) (d : Word64), bytesOfCmdWord (cmdWord op a d) = op :: a :: bytesOfWord64 d) ∧
  (∀ (v : Word64) (rest : List Byte), word64OfBytes (bytesOfWord64 v ++ rest) = some (v, rest)) ∧
  ∀ (v : Word64) (k : Fin 8),
    (bytesOfWord64 v)[k.val]? = some (nib v ⟨2 * k.val, by omega⟩ ++ nib v ⟨2 * k.val + 1, by omega⟩)

/-- Rule R39: what each pseudo-instruction expands to, and that `LDKEYS` loads the two half-keys, `ROUNDX a` leaves the
state of `RND a`, and `ENCS n` that of `ENC n`. -/
def Obligations.PseudoInstructions : Prop :=
  (∀ k0 k1 : Word64, (Pseudo.ldkeys k0 k1).expand = [.ldk0 k0, .ldk1 k1]) ∧
  (∀ a : Byte, (Pseudo.roundx a).expand = [.sub, .shf, .mix, .ak a]) ∧
  (∀ n : Byte, (Pseudo.encs n).expand = [.start n, .run]) ∧
  (∀ (m : State) (k0 k1 : Word64), m.err = false →
    runCommands (Pseudo.ldkeys k0 k1).expand m = .next { m with k0 := k0, k1 := k1, dout := some 0 }) ∧
  (∀ (m : State) (a : Byte), m.err = false → a.toNat < m.cfg.rkDepth →
    ∃ t, exec (.rnd a) m = .next t ∧ runCommands (Pseudo.roundx a).expand m = .next t) ∧
  ∀ (m : State) (n : Byte), m.err = false → 1 ≤ n.toNat → n.toNat ≤ m.cfg.rkDepth + 1 →
    ∃ t, exec (.enc n) m = .next t ∧ runCommands (Pseudo.encs n).expand m = .next t

/-! ### Reset (10_state.md rule R19, 70_reset_and_hazards.md rule R98) -/

/-- Rule R19: the reset value of every piece of state, for every configuration, and that `STATUS` reads 0; the model's
`State.reset` is that of the values the spec takes. -/
def Obligations.ResetValues : Prop :=
  State.reset = State.resetOf Config.taken ∧
  ∀ C : Config,
    let r := State.resetOf C
    r.cfg = C ∧ r.s = 0 ∧ r.k0 = 0 ∧ r.k1 = 0 ∧ r.wk = 0 ∧
    r.sbox = C.sboxDefault ∧ r.perm = C.permDefault ∧ (∀ i, r.rk.get i = 0) ∧
    r.rcm.code = 0 ∧ r.nr = 0 ∧ r.ri = 0 ∧ r.ph.code = 0 ∧
    r.err = false ∧ r.cause.code = 0 ∧ r.done = false ∧ r.fop = 0 ∧ r.fa = 0 ∧ status r = 0

/-- Rule R98: `reset` may come in any state, faulted or not, and puts every piece of state to its reset value; the host
gets nothing back (rule R111; log 5). -/
def Obligations.ResetActionIsTotal : Prop :=
  ∀ (m : State) (rest : List HostAction), m.host = .reset :: rest →
    step m = .next { State.resetOf m.cfg with host := rest }

/-! ### Loads and reads (40_data_movement.md) -/

/-- Rules R40 to R43: `LDS`, `LDK0`, `LDK1`, `LDWK` write their register from `D` and nothing else. -/
def Obligations.RegisterLoads : Prop :=
  (EncodesD 0x01 .lds ∧ EncodesD 0x02 .ldk0 ∧ EncodesD 0x03 .ldk1 ∧ EncodesD 0x04 .ldwk) ∧
  ∀ (m : State) (d : Word64), m.err = false →
    exec (.lds d) m = .next { m with s := d, dout := some 0 } ∧
    exec (.ldk0 d) m = .next { m with k0 := d, dout := some 0 } ∧
    exec (.ldk1 d) m = .next { m with k1 := d, dout := some 0 } ∧
    exec (.ldwk d) m = .next { m with wk := d, dout := some 0 }

/-- Rules R44 and R45: `LDSB` and `LDPM` replace all 16 entries, entry `v` by the nibble `D[63-4v : 60-4v]`, whatever
the table is. -/
def Obligations.TableLoads : Prop :=
  (EncodesD 0x05 .ldsb ∧ EncodesD 0x06 .ldpm) ∧
  ∀ (m : State) (d : Word64), m.err = false →
    ∃ T : Lut, (∀ v : Fin 16, T.get v = d.extractLsb' (60 - 4 * v.val) 4) ∧
      exec (.ldsb d) m = .next { m with sbox := T, dout := some 0 } ∧
      exec (.ldpm d) m = .next { m with perm := T, dout := some 0 }

/-- Rule R46: `LDRK` writes one word of `RK` and leaves the others; an index of `RKDEPTH` or more raises `BAD_OPERAND`.
-/
def Obligations.RoundKeyLoad : Prop :=
  EncodesAD 0x07 .ldrk ∧
  (∀ (m : State) (a : Byte) (d : Word64) (h : a.toNat < m.cfg.rkDepth), m.err = false →
    ∃ R : Vector Word64 m.cfg.rkDepth,
      R.get ⟨a.toNat, h⟩ = d ∧ (∀ j, j.val ≠ a.toNat → R.get j = m.rk.get j) ∧
      exec (.ldrk a d) m = .next { m with rk := R, dout := some 0 }) ∧
  ∀ (m : State) (a : Byte) (d : Word64), m.err = false → m.cfg.rkDepth ≤ a.toNat →
    exec (.ldrk a d) m = .next (m.faulted .badOperand 0x07 a)

/-- Rule R47: `SETM` sets the mode whose code is `A[1:0]` for `A <= 2`, and raises `BAD_OPERAND` above. -/
def Obligations.ModeSetting : Prop :=
  EncodesA 0x08 .setm ∧
  (∀ (m : State) (a : Byte), m.err = false → a.toNat ≤ 2 →
    ∃ md : RcMode, md.code = a.extractLsb' 0 2 ∧ exec (.setm a) m = .next { m with rcm := md, dout := some 0 }) ∧
  ∀ (m : State) (a : Byte), m.err = false → 2 < a.toNat →
    exec (.setm a) m = .next (m.faulted .badOperand 0x08 a)

/-- Rules R48 to R51: `RDS`, `RDK0`, `RDK1`, `RDWK` answer their register and change no state. -/
def Obligations.RegisterReads : Prop :=
  (EncodesN 0x11 .rds ∧ EncodesN 0x12 .rdk0 ∧ EncodesN 0x13 .rdk1 ∧ EncodesN 0x14 .rdwk) ∧
  ∀ m : State, m.err = false →
    exec .rds m = .next { m with dout := some m.s } ∧
    exec .rdk0 m = .next { m with dout := some m.k0 } ∧
    exec .rdk1 m = .next { m with dout := some m.k1 } ∧
    exec .rdwk m = .next { m with dout := some m.wk }

/-- Rules R52 and R53: `RDSB` and `RDPM` answer the table packed, entry `v` in bits `63-4v` to `60-4v`, and change no
state. -/
def Obligations.TableReads : Prop :=
  (EncodesN 0x15 .rdsb ∧ EncodesN 0x16 .rdpm) ∧
  ∀ m : State, m.err = false →
    (∃ v : Word64, (∀ i : Fin 16, v.extractLsb' (60 - 4 * i.val) 4 = m.sbox.get i) ∧
      exec .rdsb m = .next { m with dout := some v }) ∧
    ∃ v : Word64, (∀ i : Fin 16, v.extractLsb' (60 - 4 * i.val) 4 = m.perm.get i) ∧
      exec .rdpm m = .next { m with dout := some v }

/-- Rule R54: `RDRK` answers one word of `RK` and changes no state; an index of `RKDEPTH` or more raises `BAD_OPERAND`.
-/
def Obligations.RoundKeyRead : Prop :=
  EncodesA 0x17 .rdrk ∧
  (∀ (m : State) (a : Byte) (h : a.toNat < m.cfg.rkDepth), m.err = false →
    exec (.rdrk a) m = .next { m with dout := some (m.rk.get ⟨a.toNat, h⟩) }) ∧
  ∀ (m : State) (a : Byte), m.err = false → m.cfg.rkDepth ≤ a.toNat →
    exec (.rdrk a) m = .next (m.faulted .badOperand 0x17 a)

/-- Rules R18 and R55: `RDST` answers, faulted or not, the word with each field at its bits and 0 elsewhere, and changes
no state; an ill-formed `RDST` is refused while `ERR = 1`. -/
def Obligations.StatusRead : Prop :=
  EncodesN 0x18 .rdst ∧
  (∀ m : State, ∃ v : Word64,
    v.extractLsb' 0 4 = m.cause.code ∧ v.extractLsb' 4 1 = BitVec.ofBool m.err ∧
    v.extractLsb' 5 1 = BitVec.ofBool m.done ∧ v.extractLsb' 6 2 = m.rcm.code ∧ v.extractLsb' 8 3 = m.ph.code ∧
    v.extractLsb' 11 5 = 0 ∧ v.extractLsb' 16 8 = m.ri ∧ v.extractLsb' 24 8 = m.nr ∧ v.extractLsb' 32 8 = m.fa ∧
    v.extractLsb' 40 8 = m.fop ∧ v.extractLsb' 48 16 = 0 ∧
    exec .rdst m = .next { m with dout := some v }) ∧
  ∀ (m : State) (a : Byte) (d : Word64) (rest : List HostAction),
    m.host = .issue (cmdWord 0x18 a d) :: rest → m.err = true → (a ≠ 0 ∨ d ≠ 0) →
    step m = .next { m with host := rest, dout := some 0 }

/-- Rule R26: each location that a command writes is read back by its read command as it was written. -/
def Obligations.LoadsReadBack : Prop :=
  ∀ (m : State) (a : Byte) (d : Word64), m.err = false → a.toNat < m.cfg.rkDepth →
    ∀ p ∈ [(Instr.lds d, Instr.rds), (.ldk0 d, .rdk0), (.ldk1 d, .rdk1), (.ldwk d, .rdwk), (.ldsb d, .rdsb),
      (.ldpm d, .rdpm), (.ldrk a d, .rdrk a)],
    ∃ t, runCommands [p.1, p.2] m = .next t ∧ t.dout = some d

/-! ### Layers (41_layer_ops.md) -/

/-- Rule R56: nibble `i` of `substitute(s, T)` is `T[nib(s,i)]`, for any table. -/
def Obligations.SubstituteByNibble : Prop :=
  ∀ (s : Word64) (T : Lut) (i v : Fin 16),
    (s.extractLsb' (60 - 4 * i.val) 4).toNat = v.val →
    (substitute s T).extractLsb' (60 - 4 * i.val) 4 = T.get v

/-- Rule R57: nibble `i` of `shuffle(s, P)` is the input's nibble `P[i]`, for any table. -/
def Obligations.ShuffleByNibble : Prop :=
  ∀ (s : Word64) (P : Lut) (i j : Fin 16), (P.get i).toNat = j.val →
    (shuffle s P).extractLsb' (60 - 4 * i.val) 4 = s.extractLsb' (60 - 4 * j.val) 4

/-- Rule R58: in column `c`, each nibble of `diffuse(s)` is the XOR of the three other nibbles of the column. -/
def Obligations.DiffuseByColumn : Prop :=
  ∀ (s : Word64) (c : Fin 4),
    let a0 := nib s ⟨4 * c.val, by omega⟩
    let a1 := nib s ⟨4 * c.val + 1, by omega⟩
    let a2 := nib s ⟨4 * c.val + 2, by omega⟩
    let a3 := nib s ⟨4 * c.val + 3, by omega⟩
    nib (diffuse s) ⟨4 * c.val, by omega⟩ = a1 ^^^ a2 ^^^ a3 ∧
    nib (diffuse s) ⟨4 * c.val + 1, by omega⟩ = a0 ^^^ a2 ^^^ a3 ∧
    nib (diffuse s) ⟨4 * c.val + 2, by omega⟩ = a0 ^^^ a1 ^^^ a3 ∧
    nib (diffuse s) ⟨4 * c.val + 3, by omega⟩ = a0 ^^^ a1 ^^^ a2

/-- Rule R67 (the spec's own inferences): `diffuse` is a linear involution that keeps a column whose nibbles XOR to 0
and a column of four equal nibbles; `shuffle` is linear, with the identity table the identity, and undone by an inverse
table; `substitute` with the identity table is the identity. -/
def Obligations.LayerAlgebra : Prop :=
  (∀ s : Word64, diffuse (diffuse s) = s) ∧
  (∀ x y : Word64, diffuse (x ^^^ y) = diffuse x ^^^ diffuse y) ∧ diffuse 0 = 0 ∧
  (∀ (s : Word64) (c : Fin 4),
    (nib s ⟨4 * c.val, by omega⟩ ^^^ nib s ⟨4 * c.val + 1, by omega⟩ ^^^ nib s ⟨4 * c.val + 2, by omega⟩ ^^^
      nib s ⟨4 * c.val + 3, by omega⟩ = 0 ∨ ∃ x, ∀ i : Fin 16, i.val / 4 = c.val → nib s i = x) →
    ∀ i : Fin 16, i.val / 4 = c.val → nib (diffuse s) i = nib s i) ∧
  (∀ (x y : Word64) (P : Lut), shuffle (x ^^^ y) P = shuffle x P ^^^ shuffle y P) ∧
  (∀ (s : Word64) (T : Lut), (∀ i, (T.get i).toNat = i.val) → shuffle s T = s ∧ substitute s T = s) ∧
  ∀ (s : Word64) (P Q : Lut), (∀ i j : Fin 16, (P.get i).toNat = j.val → (Q.get j).toNat = i.val) →
    shuffle (shuffle s P) Q = s

/-- Rules R61, R62, R63 and R65: `SUB`, `SHF`, `MIX` and `WHT` apply their layer to `S`, with the tables and the key the
block holds, and change nothing else. -/
def Obligations.LayerCommands : Prop :=
  (EncodesN 0x20 .sub ∧ EncodesN 0x21 .shf ∧ EncodesN 0x22 .mix ∧ EncodesN 0x24 .wht) ∧
  ∀ m : State, m.err = false →
    exec .sub m = .next { m with s := substitute m.s m.sbox, dout := some 0 } ∧
    exec .shf m = .next { m with s := shuffle m.s m.perm, dout := some 0 } ∧
    exec .mix m = .next { m with s := diffuse m.s, dout := some 0 } ∧
    exec .wht m = .next { m with s := m.s ^^^ m.wk, dout := some 0 }

/-- Rules R64 and R66: `AK` and `RND` use the round key `RK[A]`; an index of `RKDEPTH` or more raises `BAD_OPERAND` and
no layer is applied. -/
def Obligations.RoundKeyLayers : Prop :=
  (EncodesA 0x23 .ak ∧ EncodesA 0x25 .rnd) ∧
  (∀ (m : State) (a : Byte) (h : a.toNat < m.cfg.rkDepth), m.err = false →
    exec (.ak a) m = .next { m with s := m.s ^^^ m.rk.get ⟨a.toNat, h⟩, dout := some 0 } ∧
    exec (.rnd a) m = .next { m with
      s := diffuse (shuffle (substitute m.s m.sbox) m.perm) ^^^ m.rk.get ⟨a.toNat, h⟩, dout := some 0 }) ∧
  ∀ (m : State) (a : Byte), m.err = false → m.cfg.rkDepth ≤ a.toNat →
    exec (.ak a) m = .next (m.faulted .badOperand 0x23 a) ∧
    exec (.rnd a) m = .next (m.faulted .badOperand 0x25 a)

/-- Rules R63, R64 and R65: two `MIX`, two `AK a` or two `WHT` in a row restore the state. -/
def Obligations.LayersUndoThemselves : Prop :=
  ∀ (m : State) (a : Byte), m.err = false → a.toNat < m.cfg.rkDepth →
    ∀ i ∈ [Instr.mix, .ak a, .wht], runCommands [i, i] m = .next { m with dout := some 0 }

/-! ### Key schedule (42_key_schedule.md) -/

/-- Rule R72: `KSCH n` writes `RK[0..n-2]`, the half-key of the index's parity XOR the constant the mode selects, keeps
the other words, and raises `BAD_OPERAND` for a round count outside `1..RKDEPTH+1`. -/
def Obligations.KeyScheduleCommand : Prop :=
  EncodesA 0x30 .ksch ∧
  (∀ (m : State) (n : Byte), m.err = false → 1 ≤ n.toNat → n.toNat ≤ m.cfg.rkDepth + 1 →
    ∃ R : Vector Word64 m.cfg.rkDepth,
      (∀ i : Fin m.cfg.rkDepth, i.val + 2 ≤ n.toNat →
        R.get i = (if i.val % 2 = 0 then m.k0 else m.k1) ^^^
          (match m.rcm with
          | .none => 0
          | .weak => m.cfg.rcWeak.get i
          | .standard => m.cfg.rcStd.get i)) ∧
      (∀ i : Fin m.cfg.rkDepth, n.toNat < i.val + 2 → R.get i = m.rk.get i) ∧
      exec (.ksch n) m = .next { m with rk := R, dout := some 0 }) ∧
  ∀ (m : State) (n : Byte), m.err = false → (n.toNat = 0 ∨ m.cfg.rkDepth + 1 < n.toNat) →
    exec (.ksch n) m = .next (m.faulted .badOperand 0x30 n)

/-- Rule R70: the schedule of an `n`-round encryption has `n - 1` keys, and key `i` is the half-key of the index's
parity XOR the constant the mode selects. -/
def Obligations.KeyScheduleFunction : Prop :=
  ∀ (C : Config) (k0 k1 : Word64) (md : RcMode) (n : Nat), 1 ≤ n → n ≤ C.rkDepth + 1 →
    (keySchedule C k0 k1 md n).length = n - 1 ∧
    ∀ i : Fin C.rkDepth, i.val < n - 1 →
      (keySchedule C k0 k1 md n)[i.val]? = some ((if i.val % 2 = 0 then k0 else k1) ^^^
        (match md with
        | .none => 0
        | .weak => C.rcWeak.get i
        | .standard => C.rcStd.get i))

/-- Rule R71 (the spec's own inference from R70): the schedule for `n` rounds is a prefix of the schedule for `n' > n`
rounds with the same keys and mode. -/
def Obligations.KeySchedulePrefix : Prop :=
  ∀ (C : Config) (k0 k1 : Word64) (md : RcMode) (n n' : Nat), n ≤ n' →
    keySchedule C k0 k1 md n <+: keySchedule C k0 k1 md n'

/-! ### Controller (43_controller.md) -/

/-- Rule R78: `START n` sets the controller up, in every phase, and neither reads nor changes anything else; it raises
`BAD_OPERAND` for a round count outside `1..RKDEPTH+1`. -/
def Obligations.StartCommand : Prop :=
  EncodesA 0x40 .start ∧
  (∀ (m : State) (n : Byte), m.err = false → 1 ≤ n.toNat → n.toNat ≤ m.cfg.rkDepth + 1 →
    exec (.start n) m = .next { m with nr := n, ri := 0, ph := .win, done := false, dout := some 0 }) ∧
  ∀ (m : State) (n : Byte), m.err = false → (n.toNat = 0 ∨ m.cfg.rkDepth + 1 < n.toNat) →
    exec (.start n) m = .next (m.faulted .badOperand 0x40 n)

/-- Rules R77 and R79: `STEP` applies the layer the phase names and moves to the next phase, row by row of the table,
and with no encryption in progress raises `BAD_SEQUENCE`. -/
def Obligations.StepAppliesTheNextLayer : Prop :=
  EncodesN 0x41 .step ∧
  ∀ m : State, m.err = false →
    (m.ph = .idle → exec .step m = .next (m.faulted .badSequence 0x41 0)) ∧
    (m.ph = .win → exec .step m = .next { m with
      s := m.s ^^^ m.wk, ph := if m.nr = 1 then .fsub else .sub, dout := some 0 }) ∧
    (m.ph = .sub → exec .step m = .next { m with s := substitute m.s m.sbox, ph := .shf, dout := some 0 }) ∧
    (m.ph = .shf → exec .step m = .next { m with s := shuffle m.s m.perm, ph := .mix, dout := some 0 }) ∧
    (m.ph = .mix → exec .step m = .next { m with s := diffuse m.s, ph := .ak, dout := some 0 }) ∧
    (∀ h : m.ri.toNat < m.cfg.rkDepth, m.ph = .ak → exec .step m = .next { m with
      s := m.s ^^^ m.rk.get ⟨m.ri.toNat, h⟩, ri := m.ri + 1,
      ph := if (m.ri.toNat : Int) + 1 = (m.nr.toNat : Int) - 1 then .fsub else .sub, dout := some 0 }) ∧
    (m.ph = .fsub → exec .step m = .next { m with s := substitute m.s m.sbox, ph := .wout, dout := some 0 }) ∧
    (m.ph = .wout → exec .step m = .next { m with s := m.s ^^^ m.wk, done := true, ph := .idle, dout := some 0 })

/-- Rule R80: `RUN` with no encryption in progress raises `BAD_SEQUENCE`; otherwise, in every state of the controller's
invariant (log 16), it ends the encryption, and it does what one `STEP` and then `RUN` do (one `STEP` alone if that is
the last). -/
def Obligations.RunFinishesTheEncryption : Prop :=
  EncodesN 0x42 .run ∧
  (∀ m : State, m.err = false → m.ph = .idle → exec .run m = .next (m.faulted .badSequence 0x42 0)) ∧
  ∀ m : State, m.err = false → m.ph ≠ .idle → m.ControllerInv →
    (∃ v : Word64, exec .run m = .next { m with
      s := v, ri := m.nr - 1, ph := .idle, done := true, dout := some 0 }) ∧
    ∃ t, exec .step m = .next t ∧ exec .run m = if t.ph = .idle then .next t else exec .run t

/-- Rule R81, its net effect (which the spec infers from R82 (c)): `ENC n` leaves in `S` the encryption of `S` under the
tables and keys the block holds, and the controller as after the last step, in every phase and every state with `ERR =
0`; it raises `BAD_OPERAND` for a round count outside `1..RKDEPTH+1`. -/
def Obligations.EncComputesEncrypt : Prop :=
  EncodesA 0x43 .enc ∧
  (∀ (m : State) (n : Byte), m.err = false → 1 ≤ n.toNat → n.toNat ≤ m.cfg.rkDepth + 1 →
    exec (.enc n) m = .next { m with
      s := encrypt m.s n.toNat m.sbox m.perm m.rk.toList m.wk,
      nr := n, ri := n - 1, ph := .idle, done := true, dout := some 0 }) ∧
  ∀ (m : State) (n : Byte), m.err = false → (n.toNat = 0 ∨ m.cfg.rkDepth + 1 < n.toNat) →
    exec (.enc n) m = .next (m.faulted .badOperand 0x43 n)

/-- Rule R75: `encrypt` is the loop of the rule, with `v i` the state after `i` full rounds. -/
def Obligations.EncryptIsTheRoundLoop : Prop :=
  ∀ (p : Word64) (n : Nat) (T P : Lut) (rk : List Word64) (wk : Word64) (_ : 1 ≤ n) (hk : n - 1 ≤ rk.length),
    ∃ v : Nat → Word64, v 0 = p ^^^ wk ∧
      (∀ (i : Nat) (hi : i < n - 1), v (i + 1) = diffuse (shuffle (substitute (v i) T) P) ^^^ rk[i]) ∧
      encrypt p n T P rk wk = substitute (v (n - 1)) T ^^^ wk

/-- Rule R76: the layers of an `n`-round encryption number `4(n-1) + 3`, and applied in order they compute `encrypt`. -/
def Obligations.LayersComputeEncrypt : Prop :=
  ∀ (m : State) (p : Word64) (n : Nat), 1 ≤ n → n ≤ m.cfg.rkDepth + 1 →
    (layerSequence m.cfg.rkDepth n).length = 4 * (n - 1) + 3 ∧
    (layerSequence m.cfg.rkDepth n).foldl (applyLayer m) p = encrypt p n m.sbox m.perm m.rk.toList m.wk

/-- Rules R79 and R82 (b) (the spec's own inference from R77): after `START n`, exactly `4(n-1) + 3` `STEP`s complete
the encryption, none before, and one more raises `BAD_SEQUENCE`. -/
def Obligations.StepsOfAnEncryption : Prop :=
  ∀ (m : State) (n : Byte), m.err = false → 1 ≤ n.toNat → n.toNat ≤ m.cfg.rkDepth + 1 →
    (∀ k : Nat, k ≤ 4 * (n.toNat - 1) + 3 →
      ∃ t, runCommands (.start n :: List.replicate k .step) m = .next t ∧ t.err = false ∧
        (t.ph = .idle ↔ k = 4 * (n.toNat - 1) + 3) ∧ (t.done = true ↔ k = 4 * (n.toNat - 1) + 3)) ∧
    ∃ t, runCommands (.start n :: List.replicate (4 * (n.toNat - 1) + 4) .step) m = .next t ∧
      t.err = true ∧ t.cause = .badSequence ∧ t.fop = 0x41 ∧ t.fa = 0

/-- Rules R76 and R82 (c), (d) (the spec's own inference from R75 to R77): after `START n` and `k` `STEP`s, `S` is the
result of the first `k` layers of the sequence, applied to the `S` there was before. -/
def Obligations.StepsVisitEveryCheckpoint : Prop :=
  ∀ (m : State) (n : Byte) (k : Nat), m.err = false → 1 ≤ n.toNat → n.toNat ≤ m.cfg.rkDepth + 1 →
    k ≤ 4 * (n.toNat - 1) + 3 →
    ∃ t, runCommands (.start n :: List.replicate k .step) m = .next t ∧
      t.s = ((layerSequence m.cfg.rkDepth n.toNat).take k).foldl (applyLayer m) m.s

/-- Rule R100 (the spec's own inference): the host's procedure. Whatever the block held before, with `ERR = 0`: load the
tables, the mode and the half-keys, schedule at least as many rounds as are run, load the whitening key and the
plaintext, encrypt, read; the answer is `encrypt` (rule R75) under the tables loaded and the schedule of rule R70. -/
def Obligations.HostProcedureComputesTheCipher : Prop :=
  ∀ (m : State) (tb pm k0 k1 wk p : Word64) (md : RcMode) (n c : Byte),
    m.err = false → 1 ≤ n.toNat → n.toNat ≤ c.toNat → c.toNat ≤ m.cfg.rkDepth + 1 →
    ∃ t, runCommands [.ldsb tb, .ldpm pm, .setm (md.code.setWidth 8), .ldk0 k0, .ldk1 k1, .ksch c, .ldwk wk, .lds p,
        .enc n, .rds] m = .next t ∧
      t.dout = some (encrypt p n.toNat (unpackLut tb) (unpackLut pm) (keySchedule m.cfg k0 k1 md n.toNat) wk)

/-- Rule R102, its harmless writes, in every state of the controller's invariant (log 16): during an encryption, a write
to a round key already consumed does not change what `RUN` computes. -/
def Obligations.ConsumedRoundKeysDoNotMatter : Prop :=
  ∀ (m : State) (j : Fin m.cfg.rkDepth) (v : Word64),
    m.err = false → m.ph ≠ .idle → m.ControllerInv → j.val < m.ri.toNat →
    ∃ s : Word64,
      exec .run m = .next { m with s := s, ri := m.nr - 1, ph := .idle, done := true, dout := some 0 } ∧
      exec .run { m with rk := m.rk.set j.val v } = .next { m with
        rk := m.rk.set j.val v, s := s, ri := m.nr - 1, ph := .idle, done := true, dout := some 0 }

/-! ### Faults (60_exceptions.md) -/

/-- Rules R85 and R89: a word that raises a fault changes the four fields of the record, with the cause of rule R88's
first failing check and the fields `OP` and `A` of that word, answers 0, and leaves everything else as it was. -/
def Obligations.FaultEntryIsPrecise : Prop :=
  ∀ (m t : State) (cw : CmdWord) (rest : List HostAction),
    m.host = .issue cw :: rest → m.err = false → step m = .next t → t.err = true →
    t = { m with
      host := rest, err := true, fop := cw.extractLsb' 72 8, fa := cw.extractLsb' 64 8, dout := some 0,
      cause :=
        if wellFormedWord cw = false then .illegalCmd
        else if OperandOutOfRange m.cfg.rkDepth (cwOp cw) (cwA cw) then .badOperand
        else .badSequence }

/-- Rule R88: which words raise a fault, with which cause, in the order of the checks; with `ERR = 1` there is no check,
and the record of the first fault is kept. The codes of the causes are rule R86's. -/
def Obligations.CausesOfFaults : Prop :=
  (Cause.none.code = 0 ∧ Cause.illegalCmd.code = 1 ∧ Cause.badOperand.code = 2 ∧ Cause.badSequence.code = 3) ∧
  ∀ (m t : State) (cw : CmdWord) (rest : List HostAction), m.host = .issue cw :: rest → step m = .next t →
    (m.err = true → t.err = true ∧ t.cause = m.cause ∧ t.fop = m.fop ∧ t.fa = m.fa) ∧
    (m.err = false →
      (t.err = true ↔ wellFormedWord cw = false ∨ OperandOutOfRange m.cfg.rkDepth (cwOp cw) (cwA cw) ∨
        ((cwOp cw = 0x41 ∨ cwOp cw = 0x42) ∧ m.ph = .idle)) ∧
      (t.err = true → t.cause =
        if wellFormedWord cw = false then .illegalCmd
        else if OperandOutOfRange m.cfg.rkDepth (cwOp cw) (cwA cw) then .badOperand
        else .badSequence))

/-- Rule R90: while `ERR = 1` every word is refused, with no change of state and the response 0, but a well-formed
`RDST`, which answers `STATUS` and changes nothing either. -/
def Obligations.FaultedBlockRefuses : Prop :=
  ∀ (m : State) (cw : CmdWord) (rest : List HostAction), m.host = .issue cw :: rest → m.err = true →
    step m = .next { m with
      host := rest, dout := some (if cw = 0x18000000000000000000 then status m else 0) }

/-- Rule R91: whatever the host issues, and for however many steps, only `reset` takes the block out of the faulted
state; without one no piece of its state changes. -/
def Obligations.OnlyResetLeavesTheFaultedState : Prop :=
  ∀ (k : Nat) (m : State), m.err = true → HostAction.reset ∉ m.host →
    ∃ t, Sys2Proof.core.run k m = .next t ∧ t.block = m.block

/-! ### Rules about the whole machine -/

/-- Rules R10 to R18: which commands can change each piece of state; the fault record changes only in raising a fault.
-/
def Obligations.WhoWritesWhat : Prop :=
  ∀ (i : Instr) (m t : State), exec i m = .next t →
    (t.s ≠ m.s → i.opcode ∈ [0x01, 0x20, 0x21, 0x22, 0x23, 0x24, 0x25, 0x41, 0x42, 0x43]) ∧
    (t.k0 ≠ m.k0 → i.opcode = 0x02) ∧ (t.k1 ≠ m.k1 → i.opcode = 0x03) ∧ (t.wk ≠ m.wk → i.opcode = 0x04) ∧
    (t.sbox ≠ m.sbox → i.opcode = 0x05) ∧ (t.perm ≠ m.perm → i.opcode = 0x06) ∧
    (t.rk.toList ≠ m.rk.toList → i.opcode = 0x07 ∨ i.opcode = 0x30) ∧ (t.rcm ≠ m.rcm → i.opcode = 0x08) ∧
    (t.nr ≠ m.nr → i.opcode = 0x40 ∨ i.opcode = 0x43) ∧
    (t.ri ≠ m.ri ∨ t.ph ≠ m.ph ∨ t.done ≠ m.done → i.opcode ∈ [0x40, 0x41, 0x42, 0x43]) ∧
    (t.err ≠ m.err ∨ t.cause ≠ m.cause ∨ t.fop ≠ m.fop ∨ t.fa ≠ m.fa → m.err = false ∧ t.err = true) ∧
    t.cfg = m.cfg ∧ t.host = m.host

/-- Rule R8 and the introduction of 10_state.md: no host action, `reset` included, changes the configuration. -/
def Obligations.ConfigurationIsFixed : Prop :=
  ∀ (k : Nat) (m t : State), Sys2Proof.core.run k m = .next t → t.cfg = m.cfg

/-- Rule R16: the mode has no effect on any command but `KSCH`; the commands that write it or report it are left out. -/
def Obligations.ModeMattersToKschOnly : Prop :=
  ∀ (i : Instr) (m t : State) (r : RcMode), i.opcode ∉ [0x08, 0x18, 0x30] → exec i m = .next t →
    exec i { m with rcm := r } = .next { t with rcm := r }

/-- Rule R11: the half-keys are read by `KSCH`, `RDK0` and `RDK1` only; the commands that write them are left out. -/
def Obligations.HalfKeysMatterToKschOnly : Prop :=
  ∀ (i : Instr) (m t : State) (x y : Word64), i.opcode ∉ [0x02, 0x03, 0x12, 0x13, 0x30] → exec i m = .next t →
    exec i { m with k0 := x, k1 := y } = .next { t with k0 := x, k1 := y }

/-- Rule R106, with the model's reading (log 19, DEDUCED) of when `DONE` was set and a `START` was issued: an encryption
within a run is complete after a legal `ENC`, and after the `RUN` of an encryption in progress; what `RDS` returns then
is `S`; and completeness is that `DONE` was set and no `START` was issued since. -/
def Obligations.WhenAnEncryptionIsComplete : Prop :=
  ∀ (C : Config) (as : List HostAction) (p : Progress), runOf C as = some p →
    (p.encryptionComplete ↔ p.doneStands = true) ∧
    (p.state.err = false → ∀ n : Byte, 1 ≤ n.toNat → n.toNat ≤ C.rkDepth + 1 →
      ∃ q, runOf C (as ++ [.issue (encode (.enc n))]) = some q ∧ q.encryptionComplete ∧
        q.state.s = encrypt p.state.s n.toNat p.state.sbox p.state.perm p.state.rk.toList p.state.wk) ∧
    (p.state.err = false → p.state.ph ≠ .idle →
      ∃ q, runOf C (as ++ [.issue (encode .run)]) = some q ∧ q.encryptionComplete) ∧
    (p.state.err = false → p.encryptionComplete →
      ∃ q, runOf C (as ++ [.issue (encode .rds)]) = some q ∧ q.encryptionComplete ∧ q.state.dout = some p.state.s)

/-- The model's reading of rule R106's 'no `START` has been issued' (log 19, DEDUCED; the rule itself does not say it):
a well-formed `START` word ends completeness, also where it faults or is refused and so leaves `DONE` as it was (rules
R78, R89, R90), and an illegal word with opcode 0x40 is no `START` and leaves it. `reset` ends it, and no other
action but `STEP`, `RUN` and `ENC` changes it. -/
def Obligations.StartEndsCompleteness : Prop :=
  ∀ (C : Config) (as : List HostAction) (p : Progress), runOf C as = some p →
    (∀ a : Byte, ∃ q, runOf C (as ++ [.issue (encode (.start a))]) = some q ∧ ¬ q.encryptionComplete) ∧
    (∃ q, runOf C (as ++ [.reset]) = some q ∧ ¬ q.encryptionComplete) ∧
    ∀ cw : CmdWord, (∀ i, decode cw = .cmd i → i.opcode ∉ [0x40, 0x41, 0x42, 0x43]) →
      ∃ q, runOf C (as ++ [.issue cw]) = some q ∧ (q.encryptionComplete ↔ p.encryptionComplete)

/-- Rule R28: the effect of the host's first actions does not depend on the actions after them. -/
def Obligations.LaterActionsDoNotMatter : Prop :=
  ∀ (m t : State) (as bs : List HostAction),
    Sys2Proof.core.run as.length { m with host := as } = .next t →
    Sys2Proof.core.run as.length { m with host := as ++ bs } = .next { t with host := bs }

/-- The model's only stop is in `STEP` and `RUN` (log 8): every other command answers a next state in EVERY state,
whatever its operands (rule R110). -/
def Obligations.OtherCommandsAlwaysAnswer : Prop :=
  ∀ (i : Instr) (m : State), i ≠ .step → i ≠ .run → ∃ t, exec i m = .next t

/-- Rule R110: `issue` always returns, for every word; in the model, from every state of the controller's invariant (log
8, log 16). -/
def Obligations.EveryActionAnswers : Prop := ∀ m : State, m.ControllerInv → ∃ t, step m = .next t

/-- The invariant (rules R18, R82, R86; log 16) holds right after reset. -/
def Obligations.InvariantAtReset : Prop := State.reset.Inv ∧ ∀ C : Config, (State.resetOf C).Inv

/-- Every step from every state that meets the invariant (rules R18, R82, R86; log 16) leads to one that meets it. -/
def Obligations.EveryStepKeepsTheInvariant : Prop := ∀ m t : State, m.Inv → step m = .next t → t.Inv
end

