-- ==== Sys2Proof/Laws/Bits.lean ====
section
/-! SUPPORT. Slices of a concatenation (rule R9), for any widths: `{x, y}` has `y` low and `x` above it. -/

namespace Sys2Proof

/-- The low part of a concatenation. -/
theorem slice_low {w v : Nat} (x : BitVec w) (y : BitVec v) : (x ++ y).extractLsb' 0 v = y := by
  ext j hj
  simp [BitVec.getLsbD_append, hj]

/-- A slice that lies in the high part of a concatenation. -/
theorem slice_high {w v : Nat} (x : BitVec w) (y : BitVec v) (k n : Nat) :
    (x ++ y).extractLsb' (k + v) n = x.extractLsb' k n := by
  ext j hj
  simp [BitVec.getLsbD_append, show ¬ k + v + j < v by omega, show k + v + j - v = k + j by omega]

/-- The whole of a value is a slice of it. -/
theorem slice_all {w : Nat} (x : BitVec w) : x.extractLsb' 0 w = x := by
  ext j hj
  simp

/-- Two neighbouring slices, put together again. -/
theorem slice_split {w : Nat} (x : BitVec w) (lo n k : Nat) :
    x.extractLsb' (lo + n) k ++ x.extractLsb' lo n = x.extractLsb' lo (k + n) := by
  apply BitVec.eq_of_getLsbD_eq
  intro j hj
  rw [BitVec.getLsbD_append]
  by_cases h : j < n
  · simp [h, hj]
  · simp [h, hj, show j - n < k by omega, show lo + n + (j - n) = lo + j by omega]

end Sys2Proof
end

