-- ==== Sys2Proof/Laws/Operands.lean ====
section
/-! SUPPORT. Nibbles and packing, tables, and the three readings of the operand `A`. -/

namespace Sys2Proof.Machine

/-! ### Nibbles -/

/-- Nibble `i` of a packed value is the `i`-th nibble packed (rule R9). -/
theorem nib_pack (n : Fin 16 → Nibble) (i : Fin 16) : nib (pack n) i = n i := by
  unfold nib pack
  fin_cases i
  · iterate 15 refine (slice_high _ _ _ _).trans ?_
    exact slice_all _
  all_goals repeat (first | exact slice_low _ _ | refine (slice_high _ _ _ _).trans ?_)

/-- A 64-bit value is its 16 nibbles (rule R6). -/
theorem ext_nib {a b : Word64} (h : ∀ i, nib a i = nib b i) : a = b := by
  apply BitVec.eq_of_getLsbD_eq
  intro j hj
  have hbit := congrArg (·.getLsbD (j % 4)) (h ⟨15 - j / 4, by omega⟩)
  have e : 60 - 4 * (15 - j / 4) + j % 4 = j := by omega
  have l : j % 4 < 4 := by omega
  simpa [nib, BitVec.getLsbD_extractLsb', e, l] using hbit

/-- `pack` and `nib` are inverse (rule R9). -/
theorem pack_nib (s : Word64) : pack (nib s) = s := ext_nib fun i => nib_pack _ i

theorem nib_xor (a b : Word64) (i : Fin 16) : nib (a ^^^ b) i = nib a i ^^^ nib b i := by
  simp [nib, BitVec.extractLsb'_xor]

theorem nib_zero (i : Fin 16) : nib 0 i = 0 := by
  ext j hj
  simp [nib]

/-! ### Tables -/

theorem unpackLut_get (d : Word64) (i : Fin 16) : (unpackLut d).get i = nib d i := by
  simp [unpackLut, Vector.get_ofFn]

theorem packLut_unpackLut (d : Word64) : packLut (unpackLut d) = d :=
  ext_nib fun i => by rw [packLut, nib_pack, unpackLut_get]

theorem nib_packLut (T : Lut) (i : Fin 16) : nib (packLut T) i = T.get i := nib_pack _ i

/-! ### The operand `A` -/

theorem indexOperand_of_lt {depth : Nat} {a : Byte} (h : a.toNat < depth) :
    indexOperand depth a = some ⟨a.toNat, h⟩ := by
  simp [indexOperand, h]

theorem indexOperand_of_ge {depth : Nat} {a : Byte} (h : depth ≤ a.toNat) : indexOperand depth a = none := by
  simp [indexOperand, h]

theorem isCount_iff {depth : Nat} {a : Byte} : isCount depth a = true ↔ 1 ≤ a.toNat ∧ a.toNat ≤ depth + 1 := by
  simp [isCount]

/-- A mode operand is one of three numbers (rule R32). -/
theorem modeOperand_cases (a : Byte) :
    (a = 0 ∧ modeOperand a = some .none) ∨ (a = 1 ∧ modeOperand a = some .weak) ∨
    (a = 2 ∧ modeOperand a = some .standard) ∨ (2 < a.toNat ∧ modeOperand a = none) := by
  by_cases h0 : a = 0
  · simp [h0, modeOperand]
  by_cases h1 : a = 1
  · simp [h1, modeOperand]
  by_cases h2 : a = 2
  · simp [h2, modeOperand]
  refine .inr (.inr (.inr ⟨?_, by rw [modeOperand, if_neg h0, if_neg h1, if_neg h2]⟩))
  bv_omega

end Sys2Proof.Machine
end

