-- ==== Sys2Proof/Laws/State.lean ====
section
/-! SUPPORT. One lemma per field per update: what the update writes, and that every other field is as before. -/

namespace Sys2Proof.Machine

/-! ### `setS` -/

@[simp] theorem State.setS_cfg (m : State) (v : Word64) :
    (m.setS v).cfg = m.cfg := rfl

@[simp] theorem State.setS_s (m : State) (v : Word64) :
    (m.setS v).s = v := rfl

@[simp] theorem State.setS_k0 (m : State) (v : Word64) :
    (m.setS v).k0 = m.k0 := rfl

@[simp] theorem State.setS_k1 (m : State) (v : Word64) :
    (m.setS v).k1 = m.k1 := rfl

@[simp] theorem State.setS_wk (m : State) (v : Word64) :
    (m.setS v).wk = m.wk := rfl

@[simp] theorem State.setS_sbox (m : State) (v : Word64) :
    (m.setS v).sbox = m.sbox := rfl

@[simp] theorem State.setS_perm (m : State) (v : Word64) :
    (m.setS v).perm = m.perm := rfl

@[simp] theorem State.setS_rk (m : State) (v : Word64) :
    (m.setS v).rk = m.rk := rfl

@[simp] theorem State.setS_rcm (m : State) (v : Word64) :
    (m.setS v).rcm = m.rcm := rfl

@[simp] theorem State.setS_nr (m : State) (v : Word64) :
    (m.setS v).nr = m.nr := rfl

@[simp] theorem State.setS_ri (m : State) (v : Word64) :
    (m.setS v).ri = m.ri := rfl

@[simp] theorem State.setS_ph (m : State) (v : Word64) :
    (m.setS v).ph = m.ph := rfl

@[simp] theorem State.setS_err (m : State) (v : Word64) :
    (m.setS v).err = m.err := rfl

@[simp] theorem State.setS_cause (m : State) (v : Word64) :
    (m.setS v).cause = m.cause := rfl

@[simp] theorem State.setS_done (m : State) (v : Word64) :
    (m.setS v).done = m.done := rfl

@[simp] theorem State.setS_fop (m : State) (v : Word64) :
    (m.setS v).fop = m.fop := rfl

@[simp] theorem State.setS_fa (m : State) (v : Word64) :
    (m.setS v).fa = m.fa := rfl

@[simp] theorem State.setS_dout (m : State) (v : Word64) :
    (m.setS v).dout = m.dout := rfl

@[simp] theorem State.setS_host (m : State) (v : Word64) :
    (m.setS v).host = m.host := rfl

/-! ### `setK0` -/

@[simp] theorem State.setK0_cfg (m : State) (v : Word64) :
    (m.setK0 v).cfg = m.cfg := rfl

@[simp] theorem State.setK0_s (m : State) (v : Word64) :
    (m.setK0 v).s = m.s := rfl

@[simp] theorem State.setK0_k0 (m : State) (v : Word64) :
    (m.setK0 v).k0 = v := rfl

@[simp] theorem State.setK0_k1 (m : State) (v : Word64) :
    (m.setK0 v).k1 = m.k1 := rfl

@[simp] theorem State.setK0_wk (m : State) (v : Word64) :
    (m.setK0 v).wk = m.wk := rfl

@[simp] theorem State.setK0_sbox (m : State) (v : Word64) :
    (m.setK0 v).sbox = m.sbox := rfl

@[simp] theorem State.setK0_perm (m : State) (v : Word64) :
    (m.setK0 v).perm = m.perm := rfl

@[simp] theorem State.setK0_rk (m : State) (v : Word64) :
    (m.setK0 v).rk = m.rk := rfl

@[simp] theorem State.setK0_rcm (m : State) (v : Word64) :
    (m.setK0 v).rcm = m.rcm := rfl

@[simp] theorem State.setK0_nr (m : State) (v : Word64) :
    (m.setK0 v).nr = m.nr := rfl

@[simp] theorem State.setK0_ri (m : State) (v : Word64) :
    (m.setK0 v).ri = m.ri := rfl

@[simp] theorem State.setK0_ph (m : State) (v : Word64) :
    (m.setK0 v).ph = m.ph := rfl

@[simp] theorem State.setK0_err (m : State) (v : Word64) :
    (m.setK0 v).err = m.err := rfl

@[simp] theorem State.setK0_cause (m : State) (v : Word64) :
    (m.setK0 v).cause = m.cause := rfl

@[simp] theorem State.setK0_done (m : State) (v : Word64) :
    (m.setK0 v).done = m.done := rfl

@[simp] theorem State.setK0_fop (m : State) (v : Word64) :
    (m.setK0 v).fop = m.fop := rfl

@[simp] theorem State.setK0_fa (m : State) (v : Word64) :
    (m.setK0 v).fa = m.fa := rfl

@[simp] theorem State.setK0_dout (m : State) (v : Word64) :
    (m.setK0 v).dout = m.dout := rfl

@[simp] theorem State.setK0_host (m : State) (v : Word64) :
    (m.setK0 v).host = m.host := rfl

/-! ### `setK1` -/

@[simp] theorem State.setK1_cfg (m : State) (v : Word64) :
    (m.setK1 v).cfg = m.cfg := rfl

@[simp] theorem State.setK1_s (m : State) (v : Word64) :
    (m.setK1 v).s = m.s := rfl

@[simp] theorem State.setK1_k0 (m : State) (v : Word64) :
    (m.setK1 v).k0 = m.k0 := rfl

@[simp] theorem State.setK1_k1 (m : State) (v : Word64) :
    (m.setK1 v).k1 = v := rfl

@[simp] theorem State.setK1_wk (m : State) (v : Word64) :
    (m.setK1 v).wk = m.wk := rfl

@[simp] theorem State.setK1_sbox (m : State) (v : Word64) :
    (m.setK1 v).sbox = m.sbox := rfl

@[simp] theorem State.setK1_perm (m : State) (v : Word64) :
    (m.setK1 v).perm = m.perm := rfl

@[simp] theorem State.setK1_rk (m : State) (v : Word64) :
    (m.setK1 v).rk = m.rk := rfl

@[simp] theorem State.setK1_rcm (m : State) (v : Word64) :
    (m.setK1 v).rcm = m.rcm := rfl

@[simp] theorem State.setK1_nr (m : State) (v : Word64) :
    (m.setK1 v).nr = m.nr := rfl

@[simp] theorem State.setK1_ri (m : State) (v : Word64) :
    (m.setK1 v).ri = m.ri := rfl

@[simp] theorem State.setK1_ph (m : State) (v : Word64) :
    (m.setK1 v).ph = m.ph := rfl

@[simp] theorem State.setK1_err (m : State) (v : Word64) :
    (m.setK1 v).err = m.err := rfl

@[simp] theorem State.setK1_cause (m : State) (v : Word64) :
    (m.setK1 v).cause = m.cause := rfl

@[simp] theorem State.setK1_done (m : State) (v : Word64) :
    (m.setK1 v).done = m.done := rfl

@[simp] theorem State.setK1_fop (m : State) (v : Word64) :
    (m.setK1 v).fop = m.fop := rfl

@[simp] theorem State.setK1_fa (m : State) (v : Word64) :
    (m.setK1 v).fa = m.fa := rfl

@[simp] theorem State.setK1_dout (m : State) (v : Word64) :
    (m.setK1 v).dout = m.dout := rfl

@[simp] theorem State.setK1_host (m : State) (v : Word64) :
    (m.setK1 v).host = m.host := rfl

/-! ### `setWk` -/

@[simp] theorem State.setWk_cfg (m : State) (v : Word64) :
    (m.setWk v).cfg = m.cfg := rfl

@[simp] theorem State.setWk_s (m : State) (v : Word64) :
    (m.setWk v).s = m.s := rfl

@[simp] theorem State.setWk_k0 (m : State) (v : Word64) :
    (m.setWk v).k0 = m.k0 := rfl

@[simp] theorem State.setWk_k1 (m : State) (v : Word64) :
    (m.setWk v).k1 = m.k1 := rfl

@[simp] theorem State.setWk_wk (m : State) (v : Word64) :
    (m.setWk v).wk = v := rfl

@[simp] theorem State.setWk_sbox (m : State) (v : Word64) :
    (m.setWk v).sbox = m.sbox := rfl

@[simp] theorem State.setWk_perm (m : State) (v : Word64) :
    (m.setWk v).perm = m.perm := rfl

@[simp] theorem State.setWk_rk (m : State) (v : Word64) :
    (m.setWk v).rk = m.rk := rfl

@[simp] theorem State.setWk_rcm (m : State) (v : Word64) :
    (m.setWk v).rcm = m.rcm := rfl

@[simp] theorem State.setWk_nr (m : State) (v : Word64) :
    (m.setWk v).nr = m.nr := rfl

@[simp] theorem State.setWk_ri (m : State) (v : Word64) :
    (m.setWk v).ri = m.ri := rfl

@[simp] theorem State.setWk_ph (m : State) (v : Word64) :
    (m.setWk v).ph = m.ph := rfl

@[simp] theorem State.setWk_err (m : State) (v : Word64) :
    (m.setWk v).err = m.err := rfl

@[simp] theorem State.setWk_cause (m : State) (v : Word64) :
    (m.setWk v).cause = m.cause := rfl

@[simp] theorem State.setWk_done (m : State) (v : Word64) :
    (m.setWk v).done = m.done := rfl

@[simp] theorem State.setWk_fop (m : State) (v : Word64) :
    (m.setWk v).fop = m.fop := rfl

@[simp] theorem State.setWk_fa (m : State) (v : Word64) :
    (m.setWk v).fa = m.fa := rfl

@[simp] theorem State.setWk_dout (m : State) (v : Word64) :
    (m.setWk v).dout = m.dout := rfl

@[simp] theorem State.setWk_host (m : State) (v : Word64) :
    (m.setWk v).host = m.host := rfl

/-! ### `setSbox` -/

@[simp] theorem State.setSbox_cfg (m : State) (T : Lut) :
    (m.setSbox T).cfg = m.cfg := rfl

@[simp] theorem State.setSbox_s (m : State) (T : Lut) :
    (m.setSbox T).s = m.s := rfl

@[simp] theorem State.setSbox_k0 (m : State) (T : Lut) :
    (m.setSbox T).k0 = m.k0 := rfl

@[simp] theorem State.setSbox_k1 (m : State) (T : Lut) :
    (m.setSbox T).k1 = m.k1 := rfl

@[simp] theorem State.setSbox_wk (m : State) (T : Lut) :
    (m.setSbox T).wk = m.wk := rfl

@[simp] theorem State.setSbox_sbox (m : State) (T : Lut) :
    (m.setSbox T).sbox = T := rfl

@[simp] theorem State.setSbox_perm (m : State) (T : Lut) :
    (m.setSbox T).perm = m.perm := rfl

@[simp] theorem State.setSbox_rk (m : State) (T : Lut) :
    (m.setSbox T).rk = m.rk := rfl

@[simp] theorem State.setSbox_rcm (m : State) (T : Lut) :
    (m.setSbox T).rcm = m.rcm := rfl

@[simp] theorem State.setSbox_nr (m : State) (T : Lut) :
    (m.setSbox T).nr = m.nr := rfl

@[simp] theorem State.setSbox_ri (m : State) (T : Lut) :
    (m.setSbox T).ri = m.ri := rfl

@[simp] theorem State.setSbox_ph (m : State) (T : Lut) :
    (m.setSbox T).ph = m.ph := rfl

@[simp] theorem State.setSbox_err (m : State) (T : Lut) :
    (m.setSbox T).err = m.err := rfl

@[simp] theorem State.setSbox_cause (m : State) (T : Lut) :
    (m.setSbox T).cause = m.cause := rfl

@[simp] theorem State.setSbox_done (m : State) (T : Lut) :
    (m.setSbox T).done = m.done := rfl

@[simp] theorem State.setSbox_fop (m : State) (T : Lut) :
    (m.setSbox T).fop = m.fop := rfl

@[simp] theorem State.setSbox_fa (m : State) (T : Lut) :
    (m.setSbox T).fa = m.fa := rfl

@[simp] theorem State.setSbox_dout (m : State) (T : Lut) :
    (m.setSbox T).dout = m.dout := rfl

@[simp] theorem State.setSbox_host (m : State) (T : Lut) :
    (m.setSbox T).host = m.host := rfl

/-! ### `setPerm` -/

@[simp] theorem State.setPerm_cfg (m : State) (T : Lut) :
    (m.setPerm T).cfg = m.cfg := rfl

@[simp] theorem State.setPerm_s (m : State) (T : Lut) :
    (m.setPerm T).s = m.s := rfl

@[simp] theorem State.setPerm_k0 (m : State) (T : Lut) :
    (m.setPerm T).k0 = m.k0 := rfl

@[simp] theorem State.setPerm_k1 (m : State) (T : Lut) :
    (m.setPerm T).k1 = m.k1 := rfl

@[simp] theorem State.setPerm_wk (m : State) (T : Lut) :
    (m.setPerm T).wk = m.wk := rfl

@[simp] theorem State.setPerm_sbox (m : State) (T : Lut) :
    (m.setPerm T).sbox = m.sbox := rfl

@[simp] theorem State.setPerm_perm (m : State) (T : Lut) :
    (m.setPerm T).perm = T := rfl

@[simp] theorem State.setPerm_rk (m : State) (T : Lut) :
    (m.setPerm T).rk = m.rk := rfl

@[simp] theorem State.setPerm_rcm (m : State) (T : Lut) :
    (m.setPerm T).rcm = m.rcm := rfl

@[simp] theorem State.setPerm_nr (m : State) (T : Lut) :
    (m.setPerm T).nr = m.nr := rfl

@[simp] theorem State.setPerm_ri (m : State) (T : Lut) :
    (m.setPerm T).ri = m.ri := rfl

@[simp] theorem State.setPerm_ph (m : State) (T : Lut) :
    (m.setPerm T).ph = m.ph := rfl

@[simp] theorem State.setPerm_err (m : State) (T : Lut) :
    (m.setPerm T).err = m.err := rfl

@[simp] theorem State.setPerm_cause (m : State) (T : Lut) :
    (m.setPerm T).cause = m.cause := rfl

@[simp] theorem State.setPerm_done (m : State) (T : Lut) :
    (m.setPerm T).done = m.done := rfl

@[simp] theorem State.setPerm_fop (m : State) (T : Lut) :
    (m.setPerm T).fop = m.fop := rfl

@[simp] theorem State.setPerm_fa (m : State) (T : Lut) :
    (m.setPerm T).fa = m.fa := rfl

@[simp] theorem State.setPerm_dout (m : State) (T : Lut) :
    (m.setPerm T).dout = m.dout := rfl

@[simp] theorem State.setPerm_host (m : State) (T : Lut) :
    (m.setPerm T).host = m.host := rfl

/-! ### `setRk` -/

@[simp] theorem State.setRk_cfg (m : State) (v : Vector Word64 m.cfg.rkDepth) :
    (m.setRk v).cfg = m.cfg := rfl

@[simp] theorem State.setRk_s (m : State) (v : Vector Word64 m.cfg.rkDepth) :
    (m.setRk v).s = m.s := rfl

@[simp] theorem State.setRk_k0 (m : State) (v : Vector Word64 m.cfg.rkDepth) :
    (m.setRk v).k0 = m.k0 := rfl

@[simp] theorem State.setRk_k1 (m : State) (v : Vector Word64 m.cfg.rkDepth) :
    (m.setRk v).k1 = m.k1 := rfl

@[simp] theorem State.setRk_wk (m : State) (v : Vector Word64 m.cfg.rkDepth) :
    (m.setRk v).wk = m.wk := rfl

@[simp] theorem State.setRk_sbox (m : State) (v : Vector Word64 m.cfg.rkDepth) :
    (m.setRk v).sbox = m.sbox := rfl

@[simp] theorem State.setRk_perm (m : State) (v : Vector Word64 m.cfg.rkDepth) :
    (m.setRk v).perm = m.perm := rfl

@[simp] theorem State.setRk_rk (m : State) (v : Vector Word64 m.cfg.rkDepth) :
    (m.setRk v).rk = v := rfl

@[simp] theorem State.setRk_rcm (m : State) (v : Vector Word64 m.cfg.rkDepth) :
    (m.setRk v).rcm = m.rcm := rfl

@[simp] theorem State.setRk_nr (m : State) (v : Vector Word64 m.cfg.rkDepth) :
    (m.setRk v).nr = m.nr := rfl

@[simp] theorem State.setRk_ri (m : State) (v : Vector Word64 m.cfg.rkDepth) :
    (m.setRk v).ri = m.ri := rfl

@[simp] theorem State.setRk_ph (m : State) (v : Vector Word64 m.cfg.rkDepth) :
    (m.setRk v).ph = m.ph := rfl

@[simp] theorem State.setRk_err (m : State) (v : Vector Word64 m.cfg.rkDepth) :
    (m.setRk v).err = m.err := rfl

@[simp] theorem State.setRk_cause (m : State) (v : Vector Word64 m.cfg.rkDepth) :
    (m.setRk v).cause = m.cause := rfl

@[simp] theorem State.setRk_done (m : State) (v : Vector Word64 m.cfg.rkDepth) :
    (m.setRk v).done = m.done := rfl

@[simp] theorem State.setRk_fop (m : State) (v : Vector Word64 m.cfg.rkDepth) :
    (m.setRk v).fop = m.fop := rfl

@[simp] theorem State.setRk_fa (m : State) (v : Vector Word64 m.cfg.rkDepth) :
    (m.setRk v).fa = m.fa := rfl

@[simp] theorem State.setRk_dout (m : State) (v : Vector Word64 m.cfg.rkDepth) :
    (m.setRk v).dout = m.dout := rfl

@[simp] theorem State.setRk_host (m : State) (v : Vector Word64 m.cfg.rkDepth) :
    (m.setRk v).host = m.host := rfl

/-! ### `setRcm` -/

@[simp] theorem State.setRcm_cfg (m : State) (v : RcMode) :
    (m.setRcm v).cfg = m.cfg := rfl

@[simp] theorem State.setRcm_s (m : State) (v : RcMode) :
    (m.setRcm v).s = m.s := rfl

@[simp] theorem State.setRcm_k0 (m : State) (v : RcMode) :
    (m.setRcm v).k0 = m.k0 := rfl

@[simp] theorem State.setRcm_k1 (m : State) (v : RcMode) :
    (m.setRcm v).k1 = m.k1 := rfl

@[simp] theorem State.setRcm_wk (m : State) (v : RcMode) :
    (m.setRcm v).wk = m.wk := rfl

@[simp] theorem State.setRcm_sbox (m : State) (v : RcMode) :
    (m.setRcm v).sbox = m.sbox := rfl

@[simp] theorem State.setRcm_perm (m : State) (v : RcMode) :
    (m.setRcm v).perm = m.perm := rfl

@[simp] theorem State.setRcm_rk (m : State) (v : RcMode) :
    (m.setRcm v).rk = m.rk := rfl

@[simp] theorem State.setRcm_rcm (m : State) (v : RcMode) :
    (m.setRcm v).rcm = v := rfl

@[simp] theorem State.setRcm_nr (m : State) (v : RcMode) :
    (m.setRcm v).nr = m.nr := rfl

@[simp] theorem State.setRcm_ri (m : State) (v : RcMode) :
    (m.setRcm v).ri = m.ri := rfl

@[simp] theorem State.setRcm_ph (m : State) (v : RcMode) :
    (m.setRcm v).ph = m.ph := rfl

@[simp] theorem State.setRcm_err (m : State) (v : RcMode) :
    (m.setRcm v).err = m.err := rfl

@[simp] theorem State.setRcm_cause (m : State) (v : RcMode) :
    (m.setRcm v).cause = m.cause := rfl

@[simp] theorem State.setRcm_done (m : State) (v : RcMode) :
    (m.setRcm v).done = m.done := rfl

@[simp] theorem State.setRcm_fop (m : State) (v : RcMode) :
    (m.setRcm v).fop = m.fop := rfl

@[simp] theorem State.setRcm_fa (m : State) (v : RcMode) :
    (m.setRcm v).fa = m.fa := rfl

@[simp] theorem State.setRcm_dout (m : State) (v : RcMode) :
    (m.setRcm v).dout = m.dout := rfl

@[simp] theorem State.setRcm_host (m : State) (v : RcMode) :
    (m.setRcm v).host = m.host := rfl

/-! ### `setNr` -/

@[simp] theorem State.setNr_cfg (m : State) (v : Byte) :
    (m.setNr v).cfg = m.cfg := rfl

@[simp] theorem State.setNr_s (m : State) (v : Byte) :
    (m.setNr v).s = m.s := rfl

@[simp] theorem State.setNr_k0 (m : State) (v : Byte) :
    (m.setNr v).k0 = m.k0 := rfl

@[simp] theorem State.setNr_k1 (m : State) (v : Byte) :
    (m.setNr v).k1 = m.k1 := rfl

@[simp] theorem State.setNr_wk (m : State) (v : Byte) :
    (m.setNr v).wk = m.wk := rfl

@[simp] theorem State.setNr_sbox (m : State) (v : Byte) :
    (m.setNr v).sbox = m.sbox := rfl

@[simp] theorem State.setNr_perm (m : State) (v : Byte) :
    (m.setNr v).perm = m.perm := rfl

@[simp] theorem State.setNr_rk (m : State) (v : Byte) :
    (m.setNr v).rk = m.rk := rfl

@[simp] theorem State.setNr_rcm (m : State) (v : Byte) :
    (m.setNr v).rcm = m.rcm := rfl

@[simp] theorem State.setNr_nr (m : State) (v : Byte) :
    (m.setNr v).nr = v := rfl

@[simp] theorem State.setNr_ri (m : State) (v : Byte) :
    (m.setNr v).ri = m.ri := rfl

@[simp] theorem State.setNr_ph (m : State) (v : Byte) :
    (m.setNr v).ph = m.ph := rfl

@[simp] theorem State.setNr_err (m : State) (v : Byte) :
    (m.setNr v).err = m.err := rfl

@[simp] theorem State.setNr_cause (m : State) (v : Byte) :
    (m.setNr v).cause = m.cause := rfl

@[simp] theorem State.setNr_done (m : State) (v : Byte) :
    (m.setNr v).done = m.done := rfl

@[simp] theorem State.setNr_fop (m : State) (v : Byte) :
    (m.setNr v).fop = m.fop := rfl

@[simp] theorem State.setNr_fa (m : State) (v : Byte) :
    (m.setNr v).fa = m.fa := rfl

@[simp] theorem State.setNr_dout (m : State) (v : Byte) :
    (m.setNr v).dout = m.dout := rfl

@[simp] theorem State.setNr_host (m : State) (v : Byte) :
    (m.setNr v).host = m.host := rfl

/-! ### `setRi` -/

@[simp] theorem State.setRi_cfg (m : State) (v : Byte) :
    (m.setRi v).cfg = m.cfg := rfl

@[simp] theorem State.setRi_s (m : State) (v : Byte) :
    (m.setRi v).s = m.s := rfl

@[simp] theorem State.setRi_k0 (m : State) (v : Byte) :
    (m.setRi v).k0 = m.k0 := rfl

@[simp] theorem State.setRi_k1 (m : State) (v : Byte) :
    (m.setRi v).k1 = m.k1 := rfl

@[simp] theorem State.setRi_wk (m : State) (v : Byte) :
    (m.setRi v).wk = m.wk := rfl

@[simp] theorem State.setRi_sbox (m : State) (v : Byte) :
    (m.setRi v).sbox = m.sbox := rfl

@[simp] theorem State.setRi_perm (m : State) (v : Byte) :
    (m.setRi v).perm = m.perm := rfl

@[simp] theorem State.setRi_rk (m : State) (v : Byte) :
    (m.setRi v).rk = m.rk := rfl

@[simp] theorem State.setRi_rcm (m : State) (v : Byte) :
    (m.setRi v).rcm = m.rcm := rfl

@[simp] theorem State.setRi_nr (m : State) (v : Byte) :
    (m.setRi v).nr = m.nr := rfl

@[simp] theorem State.setRi_ri (m : State) (v : Byte) :
    (m.setRi v).ri = v := rfl

@[simp] theorem State.setRi_ph (m : State) (v : Byte) :
    (m.setRi v).ph = m.ph := rfl

@[simp] theorem State.setRi_err (m : State) (v : Byte) :
    (m.setRi v).err = m.err := rfl

@[simp] theorem State.setRi_cause (m : State) (v : Byte) :
    (m.setRi v).cause = m.cause := rfl

@[simp] theorem State.setRi_done (m : State) (v : Byte) :
    (m.setRi v).done = m.done := rfl

@[simp] theorem State.setRi_fop (m : State) (v : Byte) :
    (m.setRi v).fop = m.fop := rfl

@[simp] theorem State.setRi_fa (m : State) (v : Byte) :
    (m.setRi v).fa = m.fa := rfl

@[simp] theorem State.setRi_dout (m : State) (v : Byte) :
    (m.setRi v).dout = m.dout := rfl

@[simp] theorem State.setRi_host (m : State) (v : Byte) :
    (m.setRi v).host = m.host := rfl

/-! ### `setPh` -/

@[simp] theorem State.setPh_cfg (m : State) (p : Phase) :
    (m.setPh p).cfg = m.cfg := rfl

@[simp] theorem State.setPh_s (m : State) (p : Phase) :
    (m.setPh p).s = m.s := rfl

@[simp] theorem State.setPh_k0 (m : State) (p : Phase) :
    (m.setPh p).k0 = m.k0 := rfl

@[simp] theorem State.setPh_k1 (m : State) (p : Phase) :
    (m.setPh p).k1 = m.k1 := rfl

@[simp] theorem State.setPh_wk (m : State) (p : Phase) :
    (m.setPh p).wk = m.wk := rfl

@[simp] theorem State.setPh_sbox (m : State) (p : Phase) :
    (m.setPh p).sbox = m.sbox := rfl

@[simp] theorem State.setPh_perm (m : State) (p : Phase) :
    (m.setPh p).perm = m.perm := rfl

@[simp] theorem State.setPh_rk (m : State) (p : Phase) :
    (m.setPh p).rk = m.rk := rfl

@[simp] theorem State.setPh_rcm (m : State) (p : Phase) :
    (m.setPh p).rcm = m.rcm := rfl

@[simp] theorem State.setPh_nr (m : State) (p : Phase) :
    (m.setPh p).nr = m.nr := rfl

@[simp] theorem State.setPh_ri (m : State) (p : Phase) :
    (m.setPh p).ri = m.ri := rfl

@[simp] theorem State.setPh_ph (m : State) (p : Phase) :
    (m.setPh p).ph = p := rfl

@[simp] theorem State.setPh_err (m : State) (p : Phase) :
    (m.setPh p).err = m.err := rfl

@[simp] theorem State.setPh_cause (m : State) (p : Phase) :
    (m.setPh p).cause = m.cause := rfl

@[simp] theorem State.setPh_done (m : State) (p : Phase) :
    (m.setPh p).done = m.done := rfl

@[simp] theorem State.setPh_fop (m : State) (p : Phase) :
    (m.setPh p).fop = m.fop := rfl

@[simp] theorem State.setPh_fa (m : State) (p : Phase) :
    (m.setPh p).fa = m.fa := rfl

@[simp] theorem State.setPh_dout (m : State) (p : Phase) :
    (m.setPh p).dout = m.dout := rfl

@[simp] theorem State.setPh_host (m : State) (p : Phase) :
    (m.setPh p).host = m.host := rfl

/-! ### `setDone` -/

@[simp] theorem State.setDone_cfg (m : State) (v : Bool) :
    (m.setDone v).cfg = m.cfg := rfl

@[simp] theorem State.setDone_s (m : State) (v : Bool) :
    (m.setDone v).s = m.s := rfl

@[simp] theorem State.setDone_k0 (m : State) (v : Bool) :
    (m.setDone v).k0 = m.k0 := rfl

@[simp] theorem State.setDone_k1 (m : State) (v : Bool) :
    (m.setDone v).k1 = m.k1 := rfl

@[simp] theorem State.setDone_wk (m : State) (v : Bool) :
    (m.setDone v).wk = m.wk := rfl

@[simp] theorem State.setDone_sbox (m : State) (v : Bool) :
    (m.setDone v).sbox = m.sbox := rfl

@[simp] theorem State.setDone_perm (m : State) (v : Bool) :
    (m.setDone v).perm = m.perm := rfl

@[simp] theorem State.setDone_rk (m : State) (v : Bool) :
    (m.setDone v).rk = m.rk := rfl

@[simp] theorem State.setDone_rcm (m : State) (v : Bool) :
    (m.setDone v).rcm = m.rcm := rfl

@[simp] theorem State.setDone_nr (m : State) (v : Bool) :
    (m.setDone v).nr = m.nr := rfl

@[simp] theorem State.setDone_ri (m : State) (v : Bool) :
    (m.setDone v).ri = m.ri := rfl

@[simp] theorem State.setDone_ph (m : State) (v : Bool) :
    (m.setDone v).ph = m.ph := rfl

@[simp] theorem State.setDone_err (m : State) (v : Bool) :
    (m.setDone v).err = m.err := rfl

@[simp] theorem State.setDone_cause (m : State) (v : Bool) :
    (m.setDone v).cause = m.cause := rfl

@[simp] theorem State.setDone_done (m : State) (v : Bool) :
    (m.setDone v).done = v := rfl

@[simp] theorem State.setDone_fop (m : State) (v : Bool) :
    (m.setDone v).fop = m.fop := rfl

@[simp] theorem State.setDone_fa (m : State) (v : Bool) :
    (m.setDone v).fa = m.fa := rfl

@[simp] theorem State.setDone_dout (m : State) (v : Bool) :
    (m.setDone v).dout = m.dout := rfl

@[simp] theorem State.setDone_host (m : State) (v : Bool) :
    (m.setDone v).host = m.host := rfl

/-! ### `setFault` -/

@[simp] theorem State.setFault_cfg (m : State) (c : Cause) (op a : Byte) :
    (m.setFault c op a).cfg = m.cfg := rfl

@[simp] theorem State.setFault_s (m : State) (c : Cause) (op a : Byte) :
    (m.setFault c op a).s = m.s := rfl

@[simp] theorem State.setFault_k0 (m : State) (c : Cause) (op a : Byte) :
    (m.setFault c op a).k0 = m.k0 := rfl

@[simp] theorem State.setFault_k1 (m : State) (c : Cause) (op a : Byte) :
    (m.setFault c op a).k1 = m.k1 := rfl

@[simp] theorem State.setFault_wk (m : State) (c : Cause) (op a : Byte) :
    (m.setFault c op a).wk = m.wk := rfl

@[simp] theorem State.setFault_sbox (m : State) (c : Cause) (op a : Byte) :
    (m.setFault c op a).sbox = m.sbox := rfl

@[simp] theorem State.setFault_perm (m : State) (c : Cause) (op a : Byte) :
    (m.setFault c op a).perm = m.perm := rfl

@[simp] theorem State.setFault_rk (m : State) (c : Cause) (op a : Byte) :
    (m.setFault c op a).rk = m.rk := rfl

@[simp] theorem State.setFault_rcm (m : State) (c : Cause) (op a : Byte) :
    (m.setFault c op a).rcm = m.rcm := rfl

@[simp] theorem State.setFault_nr (m : State) (c : Cause) (op a : Byte) :
    (m.setFault c op a).nr = m.nr := rfl

@[simp] theorem State.setFault_ri (m : State) (c : Cause) (op a : Byte) :
    (m.setFault c op a).ri = m.ri := rfl

@[simp] theorem State.setFault_ph (m : State) (c : Cause) (op a : Byte) :
    (m.setFault c op a).ph = m.ph := rfl

@[simp] theorem State.setFault_err (m : State) (c : Cause) (op a : Byte) :
    (m.setFault c op a).err = true := rfl

@[simp] theorem State.setFault_cause (m : State) (c : Cause) (op a : Byte) :
    (m.setFault c op a).cause = c := rfl

@[simp] theorem State.setFault_done (m : State) (c : Cause) (op a : Byte) :
    (m.setFault c op a).done = m.done := rfl

@[simp] theorem State.setFault_fop (m : State) (c : Cause) (op a : Byte) :
    (m.setFault c op a).fop = op := rfl

@[simp] theorem State.setFault_fa (m : State) (c : Cause) (op a : Byte) :
    (m.setFault c op a).fa = a := rfl

@[simp] theorem State.setFault_dout (m : State) (c : Cause) (op a : Byte) :
    (m.setFault c op a).dout = m.dout := rfl

@[simp] theorem State.setFault_host (m : State) (c : Cause) (op a : Byte) :
    (m.setFault c op a).host = m.host := rfl

/-! ### `setDout` -/

@[simp] theorem State.setDout_cfg (m : State) (v : Option Word64) :
    (m.setDout v).cfg = m.cfg := rfl

@[simp] theorem State.setDout_s (m : State) (v : Option Word64) :
    (m.setDout v).s = m.s := rfl

@[simp] theorem State.setDout_k0 (m : State) (v : Option Word64) :
    (m.setDout v).k0 = m.k0 := rfl

@[simp] theorem State.setDout_k1 (m : State) (v : Option Word64) :
    (m.setDout v).k1 = m.k1 := rfl

@[simp] theorem State.setDout_wk (m : State) (v : Option Word64) :
    (m.setDout v).wk = m.wk := rfl

@[simp] theorem State.setDout_sbox (m : State) (v : Option Word64) :
    (m.setDout v).sbox = m.sbox := rfl

@[simp] theorem State.setDout_perm (m : State) (v : Option Word64) :
    (m.setDout v).perm = m.perm := rfl

@[simp] theorem State.setDout_rk (m : State) (v : Option Word64) :
    (m.setDout v).rk = m.rk := rfl

@[simp] theorem State.setDout_rcm (m : State) (v : Option Word64) :
    (m.setDout v).rcm = m.rcm := rfl

@[simp] theorem State.setDout_nr (m : State) (v : Option Word64) :
    (m.setDout v).nr = m.nr := rfl

@[simp] theorem State.setDout_ri (m : State) (v : Option Word64) :
    (m.setDout v).ri = m.ri := rfl

@[simp] theorem State.setDout_ph (m : State) (v : Option Word64) :
    (m.setDout v).ph = m.ph := rfl

@[simp] theorem State.setDout_err (m : State) (v : Option Word64) :
    (m.setDout v).err = m.err := rfl

@[simp] theorem State.setDout_cause (m : State) (v : Option Word64) :
    (m.setDout v).cause = m.cause := rfl

@[simp] theorem State.setDout_done (m : State) (v : Option Word64) :
    (m.setDout v).done = m.done := rfl

@[simp] theorem State.setDout_fop (m : State) (v : Option Word64) :
    (m.setDout v).fop = m.fop := rfl

@[simp] theorem State.setDout_fa (m : State) (v : Option Word64) :
    (m.setDout v).fa = m.fa := rfl

@[simp] theorem State.setDout_dout (m : State) (v : Option Word64) :
    (m.setDout v).dout = v := rfl

@[simp] theorem State.setDout_host (m : State) (v : Option Word64) :
    (m.setDout v).host = m.host := rfl

/-! ### `setHost` -/

@[simp] theorem State.setHost_cfg (m : State) (as : List HostAction) :
    (m.setHost as).cfg = m.cfg := rfl

@[simp] theorem State.setHost_s (m : State) (as : List HostAction) :
    (m.setHost as).s = m.s := rfl

@[simp] theorem State.setHost_k0 (m : State) (as : List HostAction) :
    (m.setHost as).k0 = m.k0 := rfl

@[simp] theorem State.setHost_k1 (m : State) (as : List HostAction) :
    (m.setHost as).k1 = m.k1 := rfl

@[simp] theorem State.setHost_wk (m : State) (as : List HostAction) :
    (m.setHost as).wk = m.wk := rfl

@[simp] theorem State.setHost_sbox (m : State) (as : List HostAction) :
    (m.setHost as).sbox = m.sbox := rfl

@[simp] theorem State.setHost_perm (m : State) (as : List HostAction) :
    (m.setHost as).perm = m.perm := rfl

@[simp] theorem State.setHost_rk (m : State) (as : List HostAction) :
    (m.setHost as).rk = m.rk := rfl

@[simp] theorem State.setHost_rcm (m : State) (as : List HostAction) :
    (m.setHost as).rcm = m.rcm := rfl

@[simp] theorem State.setHost_nr (m : State) (as : List HostAction) :
    (m.setHost as).nr = m.nr := rfl

@[simp] theorem State.setHost_ri (m : State) (as : List HostAction) :
    (m.setHost as).ri = m.ri := rfl

@[simp] theorem State.setHost_ph (m : State) (as : List HostAction) :
    (m.setHost as).ph = m.ph := rfl

@[simp] theorem State.setHost_err (m : State) (as : List HostAction) :
    (m.setHost as).err = m.err := rfl

@[simp] theorem State.setHost_cause (m : State) (as : List HostAction) :
    (m.setHost as).cause = m.cause := rfl

@[simp] theorem State.setHost_done (m : State) (as : List HostAction) :
    (m.setHost as).done = m.done := rfl

@[simp] theorem State.setHost_fop (m : State) (as : List HostAction) :
    (m.setHost as).fop = m.fop := rfl

@[simp] theorem State.setHost_fa (m : State) (as : List HostAction) :
    (m.setHost as).fa = m.fa := rfl

@[simp] theorem State.setHost_dout (m : State) (as : List HostAction) :
    (m.setHost as).dout = m.dout := rfl

@[simp] theorem State.setHost_host (m : State) (as : List HostAction) :
    (m.setHost as).host = as := rfl

end Sys2Proof.Machine
end

