-- ==== Sys2Proof/Laws/Ops.lean ====
section
/-! SUPPORT. What each shared operation can do, said once: how a command ends, the refusal while `ERR = 1`, the operand
checks, and the laws of the round-key memory. -/

namespace Sys2Proof.Machine

/-! ### The round-key memory -/

theorem rkWrite_eq (m : State) (a : Fin m.cfg.rkDepth) (v : Word64) :
    rkWrite m a v = { m with rk := m.rk.set a.val v } := rfl

theorem rkRead_rkWrite_same (m : State) (a : Fin m.cfg.rkDepth) (v : Word64) : rkRead (rkWrite m a v) a = v := by
  simp [rkRead, rkWrite, Vector.get_eq_getElem]

theorem rkRead_rkWrite_other (m : State) {a b : Fin m.cfg.rkDepth} (v : Word64) (h : a ≠ b) :
    rkRead (rkWrite m a v) b = rkRead m b := by
  have hne : a.val ≠ b.val := fun e => h (Fin.ext e)
  simp [rkRead, rkWrite, Vector.get_eq_getElem, hne]

/-! ### How a command ends -/

theorem answer_eq (m : State) (v : Word64) : answer m v = .next { m with dout := some v } := rfl

theorem complete_eq (m : State) : complete m = .next { m with dout := some 0 } := rfl

/-- Raising a fault writes the record and the response, and nothing else (rules R85, R89). -/
theorem raiseFault_eq (c : Cause) (i : Instr) (m : State) :
    raiseFault c i m =
      .next { m with err := true, cause := c, fop := i.opcode, fa := i.fieldA, dout := some 0 } := rfl

theorem enterFault_eq (c : Cause) (op a : Byte) (m : State) :
    enterFault c op a m = .next { m with err := true, cause := c, fop := op, fa := a, dout := some 0 } := rfl

@[simp] theorem answer_next_iff {m t : State} {v : Word64} :
    answer m v = .next t ↔ { m with dout := some v } = t := by
  simp [answer_eq]

@[simp] theorem complete_next_iff {m t : State} : complete m = .next t ↔ { m with dout := some 0 } = t := by
  simp [complete_eq]

/-! ### The checks -/

theorem unlessFaulted_clear {m : State} {k : Result} (h : m.err = false) : unlessFaulted m k = k := by
  simp [unlessFaulted, h]

theorem unlessFaulted_faulted {m : State} {k : Result} (h : m.err = true) : unlessFaulted m k = complete m := by
  simp [unlessFaulted, h]

/-- A command that answers a state was refused while `ERR = 1`, or ran with `ERR = 0` (rule R90). -/
theorem unlessFaulted_next {m t : State} {k : Result} (h : unlessFaulted m k = .next t) :
    (m.err = true ∧ t = { m with dout := some 0 }) ∨ (m.err = false ∧ k = .next t) := by
  obtain he | he := Bool.eq_false_or_eq_true m.err
  · rw [unlessFaulted_faulted he] at h
    exact .inl ⟨he, (complete_next_iff.mp h).symm⟩
  · exact .inr ⟨he, by rwa [unlessFaulted_clear he] at h⟩

/-- A command with a ranged operand that answers a state raised `BAD_OPERAND`, or ran on the operand (rule R86). -/
theorem withOperand_next {α : Type} {x : Option α} {i : Instr} {m t : State} {k : α → Result}
    (h : withOperand x i m k = .next t) :
    (x = none ∧ t = { m with err := true, cause := .badOperand, fop := i.opcode, fa := i.fieldA, dout := some 0 }) ∨
    ∃ v, x = some v ∧ k v = .next t := by
  cases x with
  | none => exact .inl ⟨rfl, by simpa [withOperand, raiseFault_eq] using h.symm⟩
  | some v => exact .inr ⟨v, rfl, h⟩

/-- A command with a round count that answers a state raised `BAD_OPERAND`, or ran (rule R86). -/
theorem withCount_next {a : Byte} {i : Instr} {m t : State} {k : Result} (h : withCount a i m k = .next t) :
    (isCount m.cfg.rkDepth a = false ∧
      t = { m with err := true, cause := .badOperand, fop := i.opcode, fa := i.fieldA, dout := some 0 }) ∨
    (isCount m.cfg.rkDepth a = true ∧ k = .next t) := by
  cases hc : isCount m.cfg.rkDepth a
  · exact .inl ⟨rfl, by simpa [withCount, hc, raiseFault_eq] using h.symm⟩
  · exact .inr ⟨rfl, by simpa [withCount, hc] using h⟩

end Sys2Proof.Machine
end

