-- ==== Sys2Proof/Laws/Controller.lean ====
section
/-! SUPPORT. The controller: what a micro-step changes and what it leaves, how many are left, that the loop ends, and what
`STEP`, `RUN` and `ENC` answer in terms of micro-steps. -/

namespace Sys2Proof.Machine

/-! ### The controller's registers -/

theorem phaseAfterKey_cases (nr ri : Byte) :
    (ri.toNat + 1 = nr.toNat - 1 ∧ phaseAfterKey nr ri = .fsub) ∨
    (ri.toNat + 1 ≠ nr.toNat - 1 ∧ phaseAfterKey nr ri = .sub) := by
  by_cases h : ri.toNat + 1 = nr.toNat - 1
  · exact .inl ⟨h, by simp [phaseAfterKey, h]⟩
  · exact .inr ⟨h, by simp [phaseAfterKey, h]⟩

/-- The controller's invariant is about four registers and the configuration. -/
theorem controllerInv_congr {m t : State} (h : m.ControllerInv) (hc : t.cfg = m.cfg) (hn : t.nr = m.nr)
    (hr : t.ri = m.ri)    (hp : t.ph = m.ph) (hd : t.done = m.done) : t.ControllerInv := by
  unfold State.ControllerInv
  rw [hc, hn, hr, hp, hd]
  exact h

/-! ### One micro-step -/

/-- A micro-step writes `S`, `RI`, `PH` and `DONE` only (rule R77). -/
theorem advance_frame {m t : State} (h : advance m = some t) :
    t = { m with s := t.s, ri := t.ri, ph := t.ph, done := t.done } := by
  unfold advance at h
  split at h
  case h_1 => simp at h
  case h_6 =>
    obtain ⟨i, -, rfl⟩ := Option.map_eq_some_iff.mp h
    rfl
  all_goals
    obtain rfl := Option.some.inj h
    rfl

/-- How many micro-steps an encryption still takes (rule R82 (b)). -/
def microStepsLeft (m : State) : Nat :=
  match m.ph with
  | .idle => 0
  | .win => 4 * (m.nr.toNat - 1) + 3
  | .sub => 4 * (m.nr.toNat - 1 - m.ri.toNat) + 2
  | .shf => 4 * (m.nr.toNat - 1 - m.ri.toNat) + 1
  | .mix => 4 * (m.nr.toNat - 1 - m.ri.toNat)
  | .ak => 4 * (m.nr.toNat - 1 - m.ri.toNat) - 1
  | .fsub => 2
  | .wout => 1

theorem microStepsLeft_le {m : State} (h : m.ControllerInv) : microStepsLeft m ≤ maxMicroSteps m.cfg.rkDepth := by
  obtain ⟨hw, hr, hf, -, -⟩ := h
  unfold microStepsLeft maxMicroSteps
  cases hp : m.ph <;> simp [hp] at hw hr hf <;> simp <;> omega

theorem microStepsLeft_eq_zero {m : State} (h : m.ControllerInv) : microStepsLeft m = 0 ↔ m.ph = .idle := by
  obtain ⟨hw, hr, hf, -, -⟩ := h
  unfold microStepsLeft
  cases hp : m.ph <;> simp [hp] at hw hr hf <;> simp <;> omega

/-- With an encryption in progress the micro-step is defined, keeps the controller's invariant, and brings the end one
step nearer (rules R77, R82). -/
theorem advance_spec {m : State} (h : m.ControllerInv) (hp : m.ph ≠ .idle) :
    ∃ t, advance m = some t ∧ t.ControllerInv ∧ microStepsLeft t + 1 = microStepsLeft m := by
  have hinv := h
  obtain ⟨hw, hr, hf, -, hd⟩ := h
  have hdone := hd hp
  unfold advance
  cases hq : m.ph
  case idle => exact absurd hq hp
  case win =>
    obtain ⟨h1, h2, h3⟩ := hw hq
    refine ⟨_, rfl, ?_⟩
    by_cases hn : m.nr = 1#8
    · simp [State.ControllerInv, microStepsLeft, hn, h1, hq, hdone]
    · have : m.nr.toNat ≠ 1 := fun e => hn (by bv_omega)
      simp [State.ControllerInv, microStepsLeft, hn, h1, hq, hdone]
      omega
  case ak =>
    obtain ⟨h1, h2⟩ := hr (by simp [hq])
    have hlt : m.ri.toNat < m.cfg.rkDepth := by omega
    refine ⟨_, by simp only [indexOperand_of_lt hlt, Option.map_some]; rfl, ?_⟩
    obtain ⟨e, he⟩ | ⟨e, he⟩ := phaseAfterKey_cases m.nr m.ri
    · simp [State.ControllerInv, microStepsLeft, he, hq, hdone]
      omega
    · simp [State.ControllerInv, microStepsLeft, he, hq, hdone]
      omega
  case wout =>
    obtain ⟨h1, h2⟩ := hf (by simp [hq])
    exact ⟨_, rfl, by simp [State.ControllerInv, microStepsLeft, hq, h1]; omega⟩
  case fsub =>
    obtain ⟨h1, h2⟩ := hf (by simp [hq])
    exact ⟨_, rfl, by simp [State.ControllerInv, microStepsLeft, hq, h1, hdone]; omega⟩
  all_goals
    obtain ⟨h1, h2⟩ := hr (by simp [hq])
    exact ⟨_, rfl, by simp [State.ControllerInv, microStepsLeft, hq, h1, hdone]; omega⟩

/-- Any micro-step keeps the controller's invariant. -/
theorem advance_keeps_inv {m t : State} (h : m.ControllerInv) (ha : advance m = some t) : t.ControllerInv := by
  by_cases hp : m.ph = .idle
  · simp [advance, hp] at ha
  · obtain ⟨t', ht', hinv, -⟩ := advance_spec h hp
    rw [ht'] at ha
    exact Option.some.inj ha ▸ hinv

/-! ### The loop -/

theorem advanceAll_idle {m : State} (h : m.ph = .idle) (fuel : Nat) : advanceAll fuel m = some m := by
  cases fuel <;> simp [advanceAll, h]

theorem advanceAll_busy {m t : State} {fuel : Nat} (hp : m.ph ≠ .idle) (h : advance m = some t) :
    advanceAll (fuel + 1) m = advanceAll fuel t := by
  simp [advanceAll, hp, h]

/-- The loop writes `S`, `RI`, `PH` and `DONE` only. -/
theorem advanceAll_frame {fuel : Nat} {m t : State} (h : advanceAll fuel m = some t) :
    t = { m with s := t.s, ri := t.ri, ph := t.ph, done := t.done } := by
  induction fuel generalizing m with
  | zero =>
    unfold advanceAll at h
    split at h
    · obtain rfl := Option.some.inj h
      rfl
    · simp at h
  | succ fuel ih =>
    unfold advanceAll at h
    split at h
    · obtain rfl := Option.some.inj h
      rfl
    · obtain ⟨u, hu, ht⟩ := Option.bind_eq_some_iff.mp h
      have hf := advance_frame hu
      rw [ih ht, hf]

/-- The loop ends with enough fuel, idle, and the invariant kept (rule R82 (b)). -/
theorem advanceAll_spec {fuel : Nat} {m : State} (h : m.ControllerInv) (hf : microStepsLeft m ≤ fuel) :
    ∃ t, advanceAll fuel m = some t ∧ t.ph = .idle ∧ t.ControllerInv := by
  induction fuel generalizing m with
  | zero =>
    have hp := (microStepsLeft_eq_zero h).mp (by omega)
    exact ⟨m, advanceAll_idle hp 0, hp, h⟩
  | succ fuel ih =>
    by_cases hp : m.ph = .idle
    · exact ⟨m, advanceAll_idle hp _, hp, h⟩
    · obtain ⟨u, hu, hinv, hleft⟩ := advance_spec h hp
      obtain ⟨t, ht, hti⟩ := ih hinv (by omega)
      exact ⟨t, by rw [advanceAll_busy hp hu, ht], hti⟩

/-- More fuel than the encryption needs changes nothing. -/
theorem advanceAll_fuel {fuel fuel' : Nat} {m : State} (h : m.ControllerInv) (hf : microStepsLeft m ≤ fuel)
    (hf' : microStepsLeft m ≤ fuel') : advanceAll fuel m = advanceAll fuel' m := by
  induction fuel generalizing m fuel' with
  | zero =>
    have hp := (microStepsLeft_eq_zero h).mp (by omega)
    rw [advanceAll_idle hp, advanceAll_idle hp]
  | succ fuel ih =>
    by_cases hp : m.ph = .idle
    · rw [advanceAll_idle hp, advanceAll_idle hp]
    · obtain ⟨u, hu, hinv, hleft⟩ := advance_spec h hp
      obtain ⟨g, rfl⟩ : ∃ g, fuel' = g + 1 := ⟨fuel' - 1, by omega⟩
      rw [advanceAll_busy hp hu, advanceAll_busy hp hu]
      exact ih hinv (by omega) (by omega)

/-! ### What the controller does not look at -/

/-- `m` with other half-keys, mode, and host interface: what a micro-step neither reads nor writes (rules R11, R16,
R77). -/
def withOther (m : State) (a b : Word64) (c : RcMode) (d : Option Word64) (e : List HostAction) : State :=
  { m with k0 := a, k1 := b, rcm := c, dout := d, host := e }

theorem advance_withOther {m t : State} (h : advance m = some t) (a b : Word64) (c : RcMode) (d : Option Word64)
    (e : List HostAction) : advance (withOther m a b c d e) = some (withOther t a b c d e) := by
  unfold withOther
  unfold advance at h ⊢
  cases hp : m.ph <;> simp only [hp, reduceCtorEq] at h ⊢
  case ak =>
    obtain ⟨i, hi, rfl⟩ := Option.map_eq_some_iff.mp h
    exact Option.map_eq_some_iff.mpr ⟨i, hi, rfl⟩
  all_goals
    obtain rfl := Option.some.inj h
    rfl

theorem advanceAll_withOther {fuel : Nat} {m t : State} (h : advanceAll fuel m = some t) (a b : Word64) (c : RcMode)
    (d : Option Word64) (e : List HostAction) :
    advanceAll fuel (withOther m a b c d e) = some (withOther t a b c d e) := by
  have hph (m : State) : (withOther m a b c d e).ph = m.ph := rfl
  induction fuel generalizing m with
  | zero =>
    unfold advanceAll at h ⊢
    rw [hph]
    split at h
    · rename_i hp
      obtain rfl := Option.some.inj h
      rw [if_pos hp]
    · simp at h
  | succ fuel ih =>
    unfold advanceAll at h ⊢
    rw [hph]
    split at h
    · rename_i hp
      obtain rfl := Option.some.inj h
      rw [if_pos hp]
    · rename_i hp
      obtain ⟨u, hu, ht⟩ := Option.bind_eq_some_iff.mp h
      rw [if_neg hp, advance_withOther hu]
      exact ih ht

/-! ### Starting -/

/-- `START` and `ENC` leave the controller in its invariant, whatever it was before (rules R78, R81). -/
theorem startEncryption_inv {a : Byte} {m : State} (h : isCount m.cfg.rkDepth a = true) :
    (startEncryption a m).ControllerInv := by
  obtain ⟨h1, h2⟩ := isCount_iff.mp h
  simp [startEncryption, State.ControllerInv, h1, h2]

@[simp] theorem startEncryption_cfg (a : Byte) (m : State) : (startEncryption a m).cfg = m.cfg := rfl

/-- The loop of `ENC` ends, whatever phase it was issued in (rules R81, R82 (b)). -/
theorem startEncryption_runs {a : Byte} {m : State} (h : isCount m.cfg.rkDepth a = true) :
    ∃ t, advanceAll (maxMicroSteps m.cfg.rkDepth) (startEncryption a m) = some t ∧ t.ph = .idle ∧ t.ControllerInv :=
  advanceAll_spec (startEncryption_inv h) (microStepsLeft_le (startEncryption_inv h))

/-! ### What the commands answer -/

/-- A command that ran micro-steps and answers a state ran defined ones. -/
theorem completeSteps_next {x : Option State} {t : State} (h : completeSteps x = .next t) :
    ∃ u, x = some u ∧ t = { u with dout := some 0 } := by
  cases x with
  | none => simp [completeSteps] at h
  | some u => exact ⟨u, rfl, (complete_next_iff.mp h).symm⟩

/-- `STEP` and `RUN` raised `BAD_SEQUENCE`, or ran with an encryption in progress (rule R86). -/
theorem whileBusy_next {i : Instr} {m t : State} {k : Result} (h : whileBusy i m k = .next t) :
    (m.ph = .idle ∧
      t = { m with err := true, cause := .badSequence, fop := i.opcode, fa := i.fieldA, dout := some 0 }) ∨
    (m.ph ≠ .idle ∧ k = .next t) := by
  by_cases hp : m.ph = .idle
  · exact .inl ⟨hp, by simpa [whileBusy, hp, raiseFault_eq] using h.symm⟩
  · exact .inr ⟨hp, by simpa [whileBusy, hp] using h⟩

end Sys2Proof.Machine
end

