-- ==== Sys2Proof/Laws/Decode.lean ====
section
/-! SUPPORT. The fields of a command word, and the opcode map without overlaps. -/

namespace Sys2Proof

@[simp] theorem cwOp_cmdWord (op a : Byte) (d : Word64) : cwOp (cmdWord op a d) = op :=
  (slice_high (op ++ a) d 8 8).trans ((slice_high op a 0 8).trans (slice_all op))

@[simp] theorem cwA_cmdWord (op a : Byte) (d : Word64) : cwA (cmdWord op a d) = a :=
  (slice_high (op ++ a) d 0 8).trans (slice_low op a)

@[simp] theorem cwD_cmdWord (op a : Byte) (d : Word64) : cwD (cmdWord op a d) = d := slice_low (op ++ a) d

/-- A command word is its three fields (rule R30). -/
theorem cmdWord_fields (cw : CmdWord) : cmdWord (cwOp cw) (cwA cw) (cwD cw) = cw := by
  unfold cmdWord cwOp cwA cwD
  rw [slice_split cw 64 8 8]
  exact (slice_split cw 0 64 16).trans (slice_all cw)

@[simp] theorem cwOp_encode (i : Instr) : cwOp (encode i) = i.opcode := cwOp_cmdWord _ _ _

@[simp] theorem cwA_encode (i : Instr) : cwA (encode i) = i.fieldA := cwA_cmdWord _ _ _

@[simp] theorem cwD_encode (i : Instr) : cwD (encode i) = i.fieldD := cwD_cmdWord _ _ _

/-- No two rows of the opcode map have one opcode (rule R33). -/
theorem opcodeTable_nodup : (opcodeTable.map Prod.fst).Nodup := by decide

/-- What decoding answers, case by case (rule R37). -/
theorem decode_cases (cw : CmdWord) :
    (formatOf (cwOp cw) = none ∧ decode cw = .illegal .unlistedOp) ∨
    ∃ sh, shapeOf (cwOp cw) = some sh ∧
      ((sh.format.okA (cwA cw) = false ∧ decode cw = .illegal .reservedA) ∨
       (sh.format.okA (cwA cw) = true ∧ sh.format.okD (cwD cw) = false ∧ decode cw = .illegal .reservedD) ∨
       (sh.format.okA (cwA cw) = true ∧ sh.format.okD (cwD cw) = true ∧
         decode cw = .cmd (sh.build (cwA cw) (cwD cw)))) := by
  cases hs : shapeOf (cwOp cw) with
  | none => exact .inl ⟨by simp [formatOf, hs], by simp [decode, hs]⟩
  | some sh =>
    refine .inr ⟨sh, rfl, ?_⟩
    cases hA : sh.format.okA (cwA cw) <;> cases hD : sh.format.okD (cwD cw) <;> simp [decode, hs, hA, hD]

end Sys2Proof
end

