-- ==== Sys2Proof/Laws/Exec.lean ====
section
/-! SUPPORT. What a command can do, said once: it is refused, it raises a fault, or it has its effect (`exec_cases`);
and what a step does with the host's next action. -/

namespace Sys2Proof.Machine

/-- The effect of each command that is neither refused nor in fault: the state it leaves, without the response. -/
inductive Effect : Instr → State → State → Prop
  | lds (m : State) (d : Word64) : Effect (.lds d) m (m.setS d)
  | ldk0 (m : State) (d : Word64) : Effect (.ldk0 d) m (m.setK0 d)
  | ldk1 (m : State) (d : Word64) : Effect (.ldk1 d) m (m.setK1 d)
  | ldwk (m : State) (d : Word64) : Effect (.ldwk d) m (m.setWk d)
  | ldsb (m : State) (d : Word64) : Effect (.ldsb d) m (m.setSbox (unpackLut d))
  | ldpm (m : State) (d : Word64) : Effect (.ldpm d) m (m.setPerm (unpackLut d))
  | ldrk (m : State) (a : Byte) (d : Word64) (i : Fin m.cfg.rkDepth) (h : indexOperand m.cfg.rkDepth a = some i) :
      Effect (.ldrk a d) m (rkWrite m i d)
  | setm (m : State) (a : Byte) (md : RcMode) (h : modeOperand a = some md) : Effect (.setm a) m (m.setRcm md)
  | rds (m : State) : Effect .rds m m
  | rdk0 (m : State) : Effect .rdk0 m m
  | rdk1 (m : State) : Effect .rdk1 m m
  | rdwk (m : State) : Effect .rdwk m m
  | rdsb (m : State) : Effect .rdsb m m
  | rdpm (m : State) : Effect .rdpm m m
  | rdrk (m : State) (a : Byte) (i : Fin m.cfg.rkDepth) (h : indexOperand m.cfg.rkDepth a = some i) : Effect (.rdrk a) m m
  | rdst (m : State) : Effect .rdst m m
  | sub (m : State) : Effect .sub m (m.setS (substitute m.s m.sbox))
  | shf (m : State) : Effect .shf m (m.setS (shuffle m.s m.perm))
  | mix (m : State) : Effect .mix m (m.setS (diffuse m.s))
  | ak (m : State) (a : Byte) (i : Fin m.cfg.rkDepth) (h : indexOperand m.cfg.rkDepth a = some i) :
      Effect (.ak a) m (m.setS (m.s ^^^ rkRead m i))
  | wht (m : State) : Effect .wht m (m.setS (m.s ^^^ m.wk))
  | rnd (m : State) (a : Byte) (i : Fin m.cfg.rkDepth) (h : indexOperand m.cfg.rkDepth a = some i) :
      Effect (.rnd a) m (m.setS (roundFunction m.s m.sbox m.perm (rkRead m i)))
  | ksch (m : State) (a : Byte) (h : isCount m.cfg.rkDepth a = true) :
      Effect (.ksch a) m (m.setRk (writeKeys m.rk (keySchedule m.cfg m.k0 m.k1 m.rcm a.toNat)))
  | start (m : State) (a : Byte) (h : isCount m.cfg.rkDepth a = true) : Effect (.start a) m (startEncryption a m)
  | step (m t : State) (hp : m.ph ≠ .idle) (h : advance m = some t) : Effect .step m t
  | run (m t : State) (hp : m.ph ≠ .idle) (h : advanceAll (maxMicroSteps m.cfg.rkDepth) m = some t) : Effect .run m t
  | enc (m t : State) (a : Byte) (hc : isCount m.cfg.rkDepth a = true)
      (h : advanceAll (maxMicroSteps m.cfg.rkDepth) (startEncryption a m) = some t) : Effect (.enc a) m t

/-- The response of a command that is neither refused nor in fault (rule R36). -/
def response (m : State) : Instr → Word64
  | .rds => m.s
  | .rdk0 => m.k0
  | .rdk1 => m.k1
  | .rdwk => m.wk
  | .rdsb => packLut m.sbox
  | .rdpm => packLut m.perm
  | .rdrk a => ((indexOperand m.cfg.rkDepth a).map (rkRead m)).getD 0
  | .rdst => status m
  | _ => 0

/-- A command that has its effect, and is not refused, answers it (rules R36, R90). -/
theorem exec_of_effect {i : Instr} {m u : State} (h : Effect i m u) (he : m.err = false ∨ i = .rdst) :
    exec i m = .next { u with dout := some (response m i) } := by
  cases h
  case rdst => rfl
  all_goals
    have he' : m.err = false := by simpa using he
    simp only [exec, execLds, execLdk0, execLdk1, execLdwk, execLdsb, execLdpm, execLdrk, execSetm, execRds, execRdk0,
      execRdk1, execRdwk, execRdsb, execRdpm, execRdrk, execSub, execShf, execMix, execAk, execWht, execRnd, execKsch,
      execStart, execStep, execRun, execEnc, unlessFaulted_clear he', withOperand, withCount, whileBusy, completeSteps,
      response, complete_eq, answer_eq, Option.map_some, Option.getD_some, if_true, if_false, *]

/-- A command is refused while `ERR = 1`, but for `RDST` (rule R90). -/
theorem exec_refused {i : Instr} {m : State} (he : m.err = true) (hi : i ≠ .rdst) :
    exec i m = .next { m with dout := some 0 } := by
  cases i
  case rdst => exact absurd rfl hi
  all_goals exact unlessFaulted_faulted he

/-- An operand out of its range raises `BAD_OPERAND` (rule R86). -/
theorem exec_badOperand {i : Instr} {m : State} (he : m.err = false)
    (h : OperandOutOfRange m.cfg.rkDepth i.opcode i.fieldA) :
    exec i m = .next (m.faulted .badOperand i.opcode i.fieldA) := by
  cases i
  case ldrk | rdrk | ak | rnd =>
    simp only [exec, execLdrk, execRdrk, execAk, execRnd, unlessFaulted_clear he]
    rw [indexOperand_of_ge (by simpa [OperandOutOfRange, Instr.opcode, Instr.fieldA] using h)]
    rfl
  case setm a =>
    have hx : 2 < a.toNat := by simpa [OperandOutOfRange, Instr.opcode, Instr.fieldA] using h
    obtain ⟨rfl, -⟩ | ⟨rfl, -⟩ | ⟨rfl, -⟩ | ⟨-, e⟩ := modeOperand_cases a
    · simp at hx
    · simp at hx
    · simp at hx
    · simp only [exec, execSetm, unlessFaulted_clear he, e, withOperand]
      rfl
  case ksch | start | enc =>
    simp only [exec, execKsch, execStart, execEnc, unlessFaulted_clear he, withCount]
    rw [if_neg (by
      rw [isCount_iff]
      simp [OperandOutOfRange, Instr.opcode, Instr.fieldA] at h
      omega)]
    rfl
  all_goals simp [OperandOutOfRange, Instr.opcode] at h

/-- `STEP` and `RUN` with no encryption in progress raise `BAD_SEQUENCE` (rule R86). -/
theorem exec_badSequence {i : Instr} {m : State} (he : m.err = false) (hp : m.ph = .idle) (hi : i = .step ∨ i = .run) :
    exec i m = .next (m.faulted .badSequence i.opcode i.fieldA) := by
  obtain rfl | rfl := hi <;> simp only [exec, execStep, execRun, unlessFaulted_clear he, whileBusy, hp, if_true] <;> rfl

/-- An operand that is no round-key index is out of the range of the four commands that take one. -/
theorem not_index {depth : Nat} {a : Byte} (h : indexOperand depth a = none) : depth ≤ a.toNat := by
  by_contra hlt
  simp [indexOperand_of_lt (not_le.mp hlt)] at h

/-- An operand that is no round count is out of the range of the three commands that take one. -/
theorem not_count {depth : Nat} {a : Byte} (h : isCount depth a = false) : a.toNat = 0 ∨ depth + 1 < a.toNat := by
  by_contra hn
  have : isCount depth a = true := isCount_iff.mpr (by omega)
  simp [this] at h

/-- An operand that is no mode is out of the range of `SETM`. -/
theorem not_mode {a : Byte} (h : modeOperand a = none) : 2 < a.toNat := by
  obtain ⟨-, e⟩ | ⟨-, e⟩ | ⟨-, e⟩ | ⟨e, -⟩ := modeOperand_cases a
  · simp [e] at h
  · simp [e] at h
  · simp [e] at h
  · exact e

/-- What a command that answers a state did: it was refused, it raised `BAD_OPERAND`, it raised `BAD_SEQUENCE`, or it
had its effect (rules R86, R88, R90). -/
theorem exec_cases {i : Instr} {m t : State} (h : exec i m = .next t) :
    (m.err = true ∧ i ≠ .rdst ∧ t = { m with dout := some 0 }) ∨
    (m.err = false ∧ OperandOutOfRange m.cfg.rkDepth i.opcode i.fieldA ∧
      t = m.faulted .badOperand i.opcode i.fieldA) ∨
    (m.err = false ∧ m.ph = .idle ∧ (i = .step ∨ i = .run) ∧ t = m.faulted .badSequence i.opcode i.fieldA) ∨
    ((m.err = false ∨ i = .rdst) ∧ ∃ u, Effect i m u ∧ t = { u with dout := some (response m i) }) := by
  have done {u : State} (hu : Effect i m u) (he : m.err = false ∨ i = .rdst) :
      (m.err = false ∨ i = .rdst) ∧ ∃ u, Effect i m u ∧ t = { u with dout := some (response m i) } :=
    ⟨he, u, hu, Host.Outcome.next.inj (h.symm.trans (exec_of_effect hu he))⟩
  cases i
  case rdst => exact .inr (.inr (.inr (done (.rdst m) (.inr rfl))))
  all_goals
    simp only [exec, execLds, execLdk0, execLdk1, execLdwk, execLdsb, execLdpm, execLdrk, execSetm, execRds, execRdk0,
      execRdk1, execRdwk, execRdsb, execRdpm, execRdrk, execSub, execShf, execMix, execAk, execWht, execRnd, execKsch,
      execStart, execStep, execRun, execEnc] at h
    obtain ⟨he, ht⟩ | ⟨he, h⟩ := unlessFaulted_next h
    · exact .inl ⟨he, by simp, ht⟩
  case ldrk | rdrk | ak | rnd =>
    obtain ⟨hx, ht⟩ | ⟨x, hx, -⟩ := withOperand_next h
    · exact .inr (.inl ⟨he, .inl ⟨by simp [Instr.opcode], not_index hx⟩, ht⟩)
    · exact .inr (.inr (.inr (done (by constructor; exact hx) (.inl he))))
  case setm =>
    obtain ⟨hx, ht⟩ | ⟨x, hx, -⟩ := withOperand_next h
    · exact .inr (.inl ⟨he, .inr (.inr ⟨rfl, not_mode hx⟩), ht⟩)
    · exact .inr (.inr (.inr (done (.setm m _ x hx) (.inl he))))
  case ksch | start =>
    obtain ⟨hc, ht⟩ | ⟨hc, -⟩ := withCount_next h
    · exact .inr (.inl ⟨he, .inr (.inl ⟨by simp [Instr.opcode], not_count hc⟩), ht⟩)
    · exact .inr (.inr (.inr (done (by constructor; exact hc) (.inl he))))
  case enc =>
    obtain ⟨hc, ht⟩ | ⟨hc, h⟩ := withCount_next h
    · exact .inr (.inl ⟨he, .inr (.inl ⟨by simp [Instr.opcode], not_count hc⟩), ht⟩)
    · obtain ⟨u, hu, -⟩ := completeSteps_next h
      exact .inr (.inr (.inr (done (.enc m u _ hc hu) (.inl he))))
  case step | run =>
    obtain ⟨hp, ht⟩ | ⟨hp, h⟩ := whileBusy_next h
    · exact .inr (.inr (.inl ⟨he, hp, by simp, ht⟩))
    · obtain ⟨u, hu, -⟩ := completeSteps_next h
      exact .inr (.inr (.inr (done (by constructor <;> assumption) (.inl he))))
  all_goals exact .inr (.inr (.inr (done (by constructor) (.inl he))))

/-! ### The host's next action -/

theorem step_issue {m : State} {cw : CmdWord} {rest : List HostAction} (h : m.host = .issue cw :: rest) :
    step m = runWord cw (m.setHost rest) := by
  simp [step, h]

theorem step_reset {m : State} {rest : List HostAction} (h : m.host = .reset :: rest) :
    step m = .next ((State.resetOf m.cfg).setHost rest) := by
  simp [step, h, resetAction]

theorem step_idle {m : State} (h : m.host = []) : step m = .next m := by
  simp [step, h]

theorem runWord_cmd {cw : CmdWord} {i : Instr} (h : decode cw = .cmd i) (m : State) : runWord cw m = exec i m := by
  simp [runWord, h]

theorem runWord_illegal {cw : CmdWord} {why : Illegal} (h : decode cw = .illegal why) (m : State) :
    runWord cw m = execIllegal cw m := by
  simp [runWord, h]

end Sys2Proof.Machine
end

