-- ==== Sys2Proof/Laws/PerInstr.lean ====
section
/-! SUPPORT. The per-instruction family `EncodesWellFormed`: every command's word is well formed (rules R34, R37). -/

namespace Sys2Proof.Laws.EncodesWellFormed

/-- The command's word is well formed: its opcode is listed and its reserved fields are zero (rule R34). -/
def Statement (i : Instr) : Prop := wellFormedWord (encode i) = true

/-- Well-formedness of a command's word is a matter of its three fields. -/
theorem of_fields {i : Instr} (h : wellFormedFields (formatOf i.opcode) i.fieldA i.fieldD = true) : Statement i := by
  simpa [Statement, wellFormedWord] using h

theorem lds (d : Word64) : Statement (.lds d) := of_fields rfl

theorem ldk0 (d : Word64) : Statement (.ldk0 d) := of_fields rfl

theorem ldk1 (d : Word64) : Statement (.ldk1 d) := of_fields rfl

theorem ldwk (d : Word64) : Statement (.ldwk d) := of_fields rfl

theorem ldsb (d : Word64) : Statement (.ldsb d) := of_fields rfl

theorem ldpm (d : Word64) : Statement (.ldpm d) := of_fields rfl

theorem ldrk (a : Byte) (d : Word64) : Statement (.ldrk a d) := of_fields rfl

theorem setm (a : Byte) : Statement (.setm a) := of_fields rfl

theorem rds : Statement .rds := of_fields rfl

theorem rdk0 : Statement .rdk0 := of_fields rfl

theorem rdk1 : Statement .rdk1 := of_fields rfl

theorem rdwk : Statement .rdwk := of_fields rfl

theorem rdsb : Statement .rdsb := of_fields rfl

theorem rdpm : Statement .rdpm := of_fields rfl

theorem rdrk (a : Byte) : Statement (.rdrk a) := of_fields rfl

theorem rdst : Statement .rdst := of_fields rfl

theorem sub : Statement .sub := of_fields rfl

theorem shf : Statement .shf := of_fields rfl

theorem mix : Statement .mix := of_fields rfl

theorem ak (a : Byte) : Statement (.ak a) := of_fields rfl

theorem wht : Statement .wht := of_fields rfl

theorem rnd (a : Byte) : Statement (.rnd a) := of_fields rfl

theorem ksch (a : Byte) : Statement (.ksch a) := of_fields rfl

theorem start (a : Byte) : Statement (.start a) := of_fields rfl

theorem step : Statement .step := of_fields rfl

theorem run : Statement .run := of_fields rfl

theorem enc (a : Byte) : Statement (.enc a) := of_fields rfl

end Sys2Proof.Laws.EncodesWellFormed
end

