-- ==== Sys2Proof/Laws/Run.lean ====
section
/-! SUPPORT. Runs: a run is extended one action at a time, and what one more action makes of it. -/

namespace Sys2Proof.Machine

theorem runFrom_append (as bs : List HostAction) (p : Progress) :
    runFrom (as ++ bs) p = (runFrom as p).bind (runFrom bs) := by
  induction as generalizing p with
  | nil => rfl
  | cons a as ih =>
    simp only [List.cons_append, runFrom]
    cases perform a p.state <;> simp [ih]

/-- One more action at the end of a run. -/
theorem runOf_concat {C : Config} {as : List HostAction} {p : Progress} (h : runOf C as = some p) {a : HostAction}
    {t : State} (ht : perform a p.state = .next t) :
    runOf C (as ++ [a]) = some { state := t, doneStands := doneStandsAfter a t p.doneStands } := by
  unfold runOf at h ⊢
  rw [← List.cons_append, runFrom_append, h]
  simp [runFrom, ht]

/-- A run with no action after its `reset` leaves the state after reset (rules R98, R99). -/
theorem runOf_nil (C : Config) : runOf C [] = some { state := State.resetOf C, doneStands := false } := rfl

/-- What every state of a run has, if reset has it and every action keeps it. -/
theorem runOf_invariant {Inv : State → Prop} {C : Config} (h0 : Inv (State.resetOf C))
    (hstep : ∀ a m t, Inv m → perform a m = .next t → Inv t) {as : List HostAction} {p : Progress}
    (h : runOf C as = some p) : Inv p.state := by
  have key : ∀ (as : List HostAction) (p q : Progress), Inv p.state → runFrom as p = some q → Inv q.state := by
    intro as
    induction as with
    | nil =>
      intro p q hp hq
      exact Option.some.inj hq ▸ hp
    | cons a as ih =>
      intro p q hp hq
      simp only [runFrom] at hq
      split at hq
      · rename_i t ht
        exact ih _ q (hstep a _ t hp ht) hq
      all_goals simp at hq
  exact key _ { state := State.resetOf C, doneStands := false } p h0 h

end Sys2Proof.Machine
end

