-- ==== Sys2Proof/Tests/Slice0.lean ====
section
/-! SUPPORT. Tests of single operations, whose expected values are those of 95_test_vectors.md (its section is named) or
were worked out by hand from the rule named, and for every obligation with hypotheses a witness that meets them. -/

open Sys2Proof Sys2Proof.Machine

namespace Sys2Proof.Tests

/-- A value of the state a command leaves. -/
def left {α : Type} (f : State → α) : Result → Option α
  | .next t => some (f t)
  | .fault _ => none
  | .refused _ => none

/-- The response of a command and the `STATUS` word it leaves. -/
def reply (r : Result) : Option (Option Word64 × Word64) := left (fun t => (t.dout, status t)) r

/-- The reset state with `S = v`. -/
def holding (v : Word64) : State := State.reset.setS v

/-- The reset state with the keys of 95_test_vectors.md 2.4 and 2.5 and round key 0 of its L3. -/
def keyed (v : Word64) : State :=
  { State.reset with
    s := v, k0 := 0x0123456789ABCDEF, k1 := 0xFEDCBA9876543210, wk := 0x1111111111111111,
    rk := State.reset.rk.set 0 0x0F0F0F0F0F0F0F0F }

/-- `keyed` with the controller's registers at a point of an encryption. -/
def at_ (v : Word64) (p : Phase) (n r : Byte) : State := { keyed v with ph := p, nr := n, ri := r }

/-- The reset state after a fault of `STEP`. -/
def faulty : State := State.reset.faulted .badSequence 0x41 0

/-- A configuration of another depth that rule R8 allows, with all-zero constants. -/
def deeper : Config where
  rkDepth := 20
  depth_ge := by decide
  depth_le := by decide
  sboxDefault := Config.sboxTaken
  permDefault := Config.permTaken
  rcStd := Vector.replicate 20 0
  rcWeak := Vector.replicate 20 7

/-! ### Well-formedness: one ill-formed term for each check -/

theorem test_wf_unlisted : wellFormedFields none 0 0 = false := by decide

theorem test_wf_reserved_a : wellFormedFields (some .n) 1 0 = false ∧ wellFormedFields (some .d) 0x80 5 = false := by
  decide

theorem test_wf_reserved_d :
    wellFormedFields (some .n) 0 1 = false ∧ wellFormedFields (some .a) 5 0x8000000000000000 = false := by decide

theorem test_wf_accepts :
    wellFormedFields (some .n) 0 0 = true ∧ wellFormedFields (some .a) 255 0 = true ∧
    wellFormedFields (some .d) 0 1 = true ∧ wellFormedFields (some .ad) 255 1 = true := by decide

/-! ### Decode: every row of rule R33's table as a word of rule R30 -/

theorem test_decode_loads :
    decode 0x01008000000000000001 = .cmd (.lds 0x8000000000000001) ∧
    decode 0x02000123456789ABCDEF = .cmd (.ldk0 0x0123456789ABCDEF) ∧
    decode 0x0300FEDCBA9876543210 = .cmd (.ldk1 0xFEDCBA9876543210) ∧
    decode 0x04001111111111111111 = .cmd (.ldwk 0x1111111111111111) ∧
    decode 0x0500CAD3EBF789150246 = .cmd (.ldsb 0xCAD3EBF789150246) ∧
    decode 0x06000A5FE4B193C67D28 = .cmd (.ldpm 0x0A5FE4B193C67D28) ∧
    decode 0x07FF8000000000000001 = .cmd (.ldrk 255 0x8000000000000001) ∧
    decode 0x08FF0000000000000000 = .cmd (.setm 255) := by decide

theorem test_decode_reads :
    decode 0x11000000000000000000 = .cmd .rds ∧ decode 0x12000000000000000000 = .cmd .rdk0 ∧
    decode 0x13000000000000000000 = .cmd .rdk1 ∧ decode 0x14000000000000000000 = .cmd .rdwk ∧
    decode 0x15000000000000000000 = .cmd .rdsb ∧ decode 0x16000000000000000000 = .cmd .rdpm ∧
    decode 0x17810000000000000000 = .cmd (.rdrk 0x81) ∧ decode 0x18000000000000000000 = .cmd .rdst := by decide

theorem test_decode_layers :
    decode 0x20000000000000000000 = .cmd .sub ∧ decode 0x21000000000000000000 = .cmd .shf ∧
    decode 0x22000000000000000000 = .cmd .mix ∧ decode 0x230F0000000000000000 = .cmd (.ak 15) ∧
    decode 0x24000000000000000000 = .cmd .wht ∧ decode 0x25FF0000000000000000 = .cmd (.rnd 255) := by decide

theorem test_decode_key_schedule : decode 0x30100000000000000000 = .cmd (.ksch 16) := by decide

theorem test_decode_controller :
    decode 0x40030000000000000000 = .cmd (.start 3) ∧ decode 0x41000000000000000000 = .cmd .step ∧
    decode 0x42000000000000000000 = .cmd .run ∧ decode 0x43100000000000000000 = .cmd (.enc 16) := by decide

/-- 95_test_vectors.md 2.1, the illegal words. -/
theorem test_decode_illegal :
    decode 0x00000000000000000000 = .illegal .unlistedOp ∧ decode 0xFF000000000000000000 = .illegal .unlistedOp ∧
    decode 0x20010000000000000000 = .illegal .reservedA ∧ decode 0x20000000000000000001 = .illegal .reservedD ∧
    decode 0x01010000000000000000 = .illegal .reservedA ∧ decode 0x23000000000000000001 = .illegal .reservedD ∧
    [0x09, 0x10, 0x19, 0x26, 0x31, 0x44].all (fun op => decode (cmdWord op 0 0) = .illegal .unlistedOp) := by decide

/-- Rule R30, a word in binary: `OP = 00000111`, `A = 00000011`, `D` ends in `11111111`. -/
theorem test_decode_binary :
    decode (0b00000111#8 ++ 0b00000011#8 ++ 0#56 ++ 0b11111111#8) = .cmd (.ldrk 3 0xFF) := by decide

/-- Rule R24: a word as ten bytes. -/
theorem test_decode_bytes :
    decodeBytes [0x07, 0x03, 0, 0, 0, 0, 0, 0, 0, 0xFF, 0x11] = some (.cmd (.ldrk 3 0xFF), [0x11]) ∧
    decodeBytes [0x07, 0x03, 0, 0, 0, 0, 0, 0, 0] = none := by decide

/-- Rule R38, its examples. -/
theorem test_assemble_commands :
    assembleLine "LDS   #0x0123456789ABCDEF        ; 01 00".toList = some [.lds 0x0123456789ABCDEF] ∧
    assembleLine "LDSB  #[C A D 3 E B F 7 8 9 1 5 0 2 4 6]".toList = some [.ldsb 0xCAD3EBF789150246] ∧
    assembleLine "LDRK  3, #0x00000000000000FF".toList = some [.ldrk 3 0xFF] ∧
    assembleLine "SETM weak".toList = some [.setm 1] ∧ assembleLine "ENC   16".toList = some [.enc 16] := by decide

/-- Rule R39: a pseudo-instruction, and a line that is none. -/
theorem test_assemble_pseudo :
    assembleLine "ENCS 16".toList = some [.start 16, .run] ∧ assembleLine "ENCS".toList = none := by decide

/-! ### Loads and reads (95_test_vectors.md 2.2) -/

theorem test_lds : left State.s (exec (.lds 0x0123456789ABCDEF) State.reset) = some 0x0123456789ABCDEF := by decide

theorem test_ldk0 : left (fun t => (t.k0, t.k1)) (exec (.ldk0 5) State.reset) = some (5, 0) := by decide

theorem test_ldk1 : left (fun t => (t.k0, t.k1)) (exec (.ldk1 5) State.reset) = some (0, 5) := by decide

theorem test_ldwk : left State.wk (exec (.ldwk 5) State.reset) = some 5 := by decide

theorem test_ldsb :
    left (fun t => t.sbox.toList) (exec (.ldsb 0x0123456789ABCDEF) State.reset) =
      some [0, 1, 2, 3, 4, 5, 6, 7, 8, 9, 10, 11, 12, 13, 14, 15] := by decide

theorem test_ldpm :
    left (fun t => t.perm.toList) (exec (.ldpm 0xFEDCBA9876543210) State.reset) =
      some [15, 14, 13, 12, 11, 10, 9, 8, 7, 6, 5, 4, 3, 2, 1, 0] := by decide

theorem test_ldrk :
    left (fun t => t.rk.toList.take 5) (exec (.ldrk 3 0xAAAAAAAAAAAAAAAA) State.reset) =
      some [0, 0, 0, 0xAAAAAAAAAAAAAAAA, 0] := by decide

theorem test_ldrk_range :
    reply (exec (.ldrk 14 1) State.reset) = some (some 0, 0x0000000000000000) ∧
    reply (exec (.ldrk 15 1) State.reset) = some (some 0, 0x0000070F00000012) := by decide

theorem test_setm : reply (exec (.setm 2) State.reset) = some (some 0, 0x0000000000000080) := by decide

theorem test_setm_range : reply (exec (.setm 3) State.reset) = some (some 0, 0x0000080300000012) := by decide

theorem test_rds : left State.dout (exec .rds (holding 0x0123456789ABCDEF)) = some (some 0x0123456789ABCDEF) := by decide

theorem test_rdk0 : left State.dout (exec .rdk0 (keyed 0)) = some (some 0x0123456789ABCDEF) := by decide

theorem test_rdk1 : left State.dout (exec .rdk1 (keyed 0)) = some (some 0xFEDCBA9876543210) := by decide

theorem test_rdwk : left State.dout (exec .rdwk (keyed 0)) = some (some 0x1111111111111111) := by decide

theorem test_rdsb : left State.dout (exec .rdsb State.reset) = some (some 0xCAD3EBF789150246) := by decide

theorem test_rdpm : left State.dout (exec .rdpm State.reset) = some (some 0x0A5FE4B193C67D28) := by decide

theorem test_rdrk : left State.dout (exec (.rdrk 0) (keyed 0)) = some (some 0x0F0F0F0F0F0F0F0F) := by decide

theorem test_rdrk_range :
    reply (exec (.rdrk 14) State.reset) = some (some 0, 0x0000000000000000) ∧
    reply (exec (.rdrk 15) State.reset) = some (some 0, 0x0000170F00000012) := by decide

/-- 95_test_vectors.md P2, the status word before its eighth `STEP`. -/
theorem test_rdst : left State.dout (exec .rdst (at_ 0 .shf 3 1)) = some (some 0x0000000003010300) := by decide

/-- 95_test_vectors.md 2.6: `RDST` answers while `ERR = 1`, and `RDS` is refused. -/
theorem test_rdst_faulted :
    left State.dout (exec .rdst faulty) = some (some 0x0000410000000013) ∧
    left State.dout (exec .rds (faulty.setS 7)) = some (some 0) := by decide

/-! ### Layers (95_test_vectors.md 2.3) -/

theorem test_sub : left State.s (exec .sub (holding 0x0123456789ABCDEF)) = some 0xCAD3EBF789150246 := by decide

theorem test_sub_constant_table :
    substitute 0x0123456789ABCDEF (unpackLut 0x7777777777777777) = 0x7777777777777777 := by decide

theorem test_shf : left State.s (exec .shf (holding 0xFEDCBA9876543210)) = some 0xF5A01B4E6C3982D7 := by decide

theorem test_shf_not_a_permutation : shuffle 0x9123456789ABCDEF (unpackLut 0) = 0x9999999999999999 := by decide

theorem test_mix : left State.s (exec .mix (holding 0xAAAA0000BBBB1234)) = some 0xAAAA0000BBBB5670 := by decide

theorem test_mix_spreads :
    diffuse 0x1000000000000000 = 0x0111000000000000 ∧ diffuse 0x00000000000000F0 = 0x000000000000FF0F := by decide

theorem test_ak : left State.s (exec (.ak 0) (keyed 0xC1B61B0FC65A72D8)) = some 0xCEB91400C9557DD7 := by decide

theorem test_ak_range : reply (exec (.ak 15) State.reset) = some (some 0, 0x0000230F00000012) := by decide

theorem test_wht :
    left State.s (exec .wht ((holding 0x42C20FD3B586879E).setWk 0x336DE4BD02AF3F4C)) = some 0x71AFEB6EB729B8D2 := by
  decide

theorem test_rnd : left State.s (exec (.rnd 0) (keyed 0x0123456789ABCDEF)) = some 0xCEB91400C9557DD7 := by decide +kernel

theorem test_rnd_range : reply (exec (.rnd 255) State.reset) = some (some 0, 0x000025FF00000012) := by decide

/-! ### Key schedule (95_test_vectors.md 2.4) -/

theorem test_ksch :
    left (fun t => (t.rk.toList[0]?, t.rk.toList[1]?, t.rk.toList[14]?)) (exec (.ksch 16) ((keyed 0).setRcm .standard)) =
      some (some 0x0122446699BACDFE, some 0xFFCDAA9867543210, some 0x1022547699AACDEF) := by decide

theorem test_ksch_range :
    reply (exec (.ksch 0) State.reset) = some (some 0, 0x0000300000000012) ∧
    reply (exec (.ksch 17) State.reset) = some (some 0, 0x0000301100000012) ∧
    left (fun t => t.rk.toList[0]?) (exec (.ksch 1) (keyed 0)) = some (some 0x0F0F0F0F0F0F0F0F) := by decide

/-! ### Controller (95_test_vectors.md 2.5 and P1) -/

theorem test_start : reply (exec (.start 3) State.reset) = some (some 0, 0x0000000003000100) := by decide

theorem test_start_range :
    reply (exec (.start 0) State.reset) = some (some 0, 0x0000400000000012) ∧
    reply (exec (.start 17) State.reset) = some (some 0, 0x0000401100000012) := by decide

/-- The vector of `START 2`: the whitening, and the round-key step that sets `RI` and leads to phase 6. -/
theorem test_step :
    left (fun t => (t.s, t.ph)) (exec .step (at_ 0x0011223344556677 .win 2 0)) = some (0x1100332255447766, .sub) ∧
    left (fun t => (t.s, t.ph, t.ri)) (exec .step (at_ 0x26B77B6261A00A16 .ak 2 0)) =
      some (0x29B8746D6EAF0519, .fsub, 1) := by decide

theorem test_step_idle : reply (exec .step State.reset) = some (some 0, 0x0000410000000013) := by decide

/-- The vector of `START 1`, from its first `STEP` on. -/
theorem test_run :
    left (fun t => (t.s, status t)) (exec .run (at_ 0x0011223344556677 .win 1 0)) =
      some (0xBBDD22CCAAFF66EE, 0x0000000001000020) := by decide

theorem test_run_idle : reply (exec .run State.reset) = some (some 0, 0x0000420000000013) := by decide

/-- 95_test_vectors.md P1, its `ENC 16`. -/
theorem test_enc :
    left State.s (exec (.enc 16) (State.reset.setRk Config.rcStdTaken)) = some 0x3C9CCEDA2BBD449A := by decide +kernel

theorem test_enc_range :
    reply (exec (.enc 0) State.reset) = some (some 0, 0x0000430000000012) ∧
    reply (exec (.enc 17) State.reset) = some (some 0, 0x0000431100000012) := by decide

/-! ### Another configuration (rule R8; the ranges of rule R32 with `RKDEPTH = 20`) -/

theorem test_deeper_index :
    reply (exec (.ldrk 19 1) (State.resetOf deeper)) = some (some 0, 0) ∧
    reply (exec (.ldrk 20 1) (State.resetOf deeper)) = some (some 0, 0x0000071400000012) := by decide

theorem test_deeper_count :
    reply (exec (.start 21) (State.resetOf deeper)) = some (some 0, 0x0000000015000100) ∧
    reply (exec (.start 22) (State.resetOf deeper)) = some (some 0, 0x0000401600000012) := by decide

/-- Rule R72 in the weak mode: the free table is the configuration's. -/
theorem test_deeper_weak :
    left (fun t => t.rk.toList.take 3) (exec (.ksch 3) ((State.resetOf deeper).setRcm .weak)) = some [7, 7, 0] := by decide

/-! ### The end of a run (rule R106) -/

/-- After `ENC 1` the encryption is complete; after `START 0`, which faults and leaves `DONE = 1`, it is not. -/
theorem test_run_complete :
    (runOf Config.taken [.issue (encode (.enc 1))]).map (fun p => (p.state.done, p.doneStands)) = some (true, true) ∧
    (runOf Config.taken [.issue (encode (.enc 1)), .issue (encode (.start 0))]).map
      (fun p => (p.state.done, p.doneStands)) = some (true, false) := by decide

/-- A run that goes wrong: an illegal word, then a refused command. -/
theorem test_run_wrong :
    (runOf Config.taken [.issue 0, .issue (encode .sub)]).map (fun p => p.state.err) = some true := by decide

/-! ### Host actions (95_test_vectors.md 2.6) -/

theorem test_illegal_word :
    reply (step (State.reset.setHost [.issue 0])) = some (some 0, 0x0000000000000011) ∧
    reply (step (State.reset.setHost [.issue 0x20010000000000000000])) = some (some 0, 0x0000200100000011) := by decide

theorem test_reset_action : left (fun t => (t.s, t.err)) (step ((faulty.setS 7).setHost [.reset])) = some (0, false) := by
  decide

/-! ### Witnesses: a state and operands that meet all hypotheses of each obligation that has some, for each of its
clauses and at the ends of its ranges -/

theorem test_witness_EncodeOfDecode : decode 0x43100000000000000000 = .cmd (.enc 16) := by decide

theorem test_witness_IllegalWordsFault_illegal :
    let m := State.reset.setHost [.issue 0x18010000000000000000]
    m.host = [.issue 0x18010000000000000000] ∧ m.err = false ∧ wellFormedWord 0x18010000000000000000 = false := by decide

theorem test_witness_IllegalWordsFault_operand :
    (∀ i ∈ [Instr.ldrk 15 1, .rdrk 255, .ak 15, .rnd 15, .ksch 0, .ksch 17, .start 0, .enc 17, .setm 3],
      let m := State.reset.setHost [.issue (encode i)]
      m.host = [.issue (encode i)] ∧ m.err = false ∧ OperandOutOfRange m.cfg.rkDepth i.opcode i.fieldA) ∧
    ∀ i ∈ [Instr.ldrk 14 1, .rdrk 14, .ak 14, .rnd 14, .ksch 1, .ksch 16, .start 1, .enc 16, .setm 2],
      ¬ OperandOutOfRange 15 i.opcode i.fieldA := by decide

theorem test_witness_StepRunsTheDecodedCommand :
    let m := State.reset.setHost [.issue 0x41000000000000000000]
    m.host = [.issue 0x41000000000000000000] ∧ decode 0x41000000000000000000 = .cmd .step ∧
    State.reset.host = [] ∧ decodeTableWord 80 0x41000000000000000000 = some .step := by decide

theorem test_witness_PseudoInstructions :
    State.reset.err = false ∧ ∀ a ∈ [(0 : Byte), 14], a.toNat < Config.taken.rkDepth ∧
      1 ≤ (a + 1).toNat ∧ (a + 2).toNat ≤ Config.taken.rkDepth + 1 := by decide

theorem test_witness_ResetActionIsTotal : (faulty.setHost [.reset]).host = [.reset] := by decide

/-- `RegisterLoads`, `TableLoads`, `RegisterReads`, `TableReads`, `LayerCommands`: their only hypothesis. -/
theorem test_witness_RegisterLoads : (keyed 7).err = false := by decide

theorem test_witness_RoundKeyLoad :
    (keyed 7).err = false ∧ (14 : Byte).toNat < Config.taken.rkDepth ∧
    (∃ j : Fin Config.taken.rkDepth, j.val ≠ (14 : Byte).toNat) ∧
    Config.taken.rkDepth ≤ (15 : Byte).toNat := by decide

theorem test_witness_ModeSetting :
    (keyed 7).err = false ∧ (0 : Byte).toNat ≤ 2 ∧ (2 : Byte).toNat ≤ 2 ∧ 2 < (3 : Byte).toNat := by decide

/-- `RoundKeyRead`, `RoundKeyLayers`, `LayersUndoThemselves`, `LoadsReadBack`. -/
theorem test_witness_RoundKeyRead :
    (keyed 7).err = false ∧ (0 : Byte).toNat < Config.taken.rkDepth ∧ (14 : Byte).toNat < Config.taken.rkDepth ∧
    Config.taken.rkDepth ≤ (15 : Byte).toNat := by decide

theorem test_witness_StatusRead :
    ((faulty.setHost [.issue (cmdWord 0x18 1 0)]).host = [.issue (cmdWord 0x18 1 0)] ∧ (1 : Byte) ≠ 0) ∧
    ((faulty.setHost [.issue (cmdWord 0x18 0 1)]).host = [.issue (cmdWord 0x18 0 1)] ∧ (1 : Word64) ≠ 0) ∧
    (faulty.setHost [.issue (cmdWord 0x18 1 0)]).err = true := by decide

theorem test_witness_SubstituteByNibble :
    ((0x0123456789ABCDEF : Word64).extractLsb' (60 - 4 * (15 : Fin 16).val) 4).toNat = (15 : Fin 16).val := by decide

theorem test_witness_ShuffleByNibble : (Config.permTaken.get 3).toNat = (15 : Fin 16).val := by decide

theorem test_witness_LayerAlgebra_column :
    nib 0x1111000000001230 12 ^^^ nib 0x1111000000001230 13 ^^^ nib 0x1111000000001230 14 ^^^
      nib 0x1111000000001230 15 = 0 ∧
    ∃ x, ∀ i : Fin 16, i.val / 4 = 0 → nib 0x1111000000001230 i = x := ⟨by decide, 1, by decide⟩

theorem test_witness_LayerAlgebra_tables :
    (∀ i, ((unpackLut 0x0123456789ABCDEF).get i).toNat = i.val) ∧
    ∀ i j : Fin 16, (Config.permTaken.get i).toNat = j.val →
      ((unpackLut 0x07E952BCF816AD43).get j).toNat = i.val := by decide

theorem test_witness_KeyScheduleCommand :
    (keyed 7).err = false ∧
    (∀ n ∈ [(1 : Byte), 16], 1 ≤ n.toNat ∧ n.toNat ≤ Config.taken.rkDepth + 1) ∧
    (∃ i : Fin Config.taken.rkDepth, i.val + 2 ≤ (2 : Byte).toNat) ∧
    (∃ i : Fin Config.taken.rkDepth, (1 : Byte).toNat < i.val + 2) ∧
    ((0 : Byte).toNat = 0 ∨ Config.taken.rkDepth + 1 < (0 : Byte).toNat) ∧
    ((17 : Byte).toNat = 0 ∨ Config.taken.rkDepth + 1 < (17 : Byte).toNat) := by decide

theorem test_witness_KeyScheduleFunction :
    (1 ≤ 1 ∧ 1 ≤ Config.taken.rkDepth + 1) ∧
    (1 ≤ 16 ∧ 16 ≤ Config.taken.rkDepth + 1 ∧ (⟨14, by decide⟩ : Fin Config.taken.rkDepth).val < 16 - 1) := by
  decide

theorem test_witness_KeySchedulePrefix : 3 ≤ 16 := by decide

theorem test_witness_HostProcedureComputesTheCipher :
    (at_ 7 .mix 3 1).err = false ∧ 1 ≤ (3 : Byte).toNat ∧ (3 : Byte).toNat ≤ (16 : Byte).toNat ∧
    (16 : Byte).toNat ≤ Config.taken.rkDepth + 1 := by decide

/-- `StartCommand`, `EncComputesEncrypt`, `StepsOfAnEncryption`, `StepsVisitEveryCheckpoint` (`k = 7` of `START 2`). -/
theorem test_witness_StartCommand :
    (at_ 7 .mix 3 1).err = false ∧
    (∀ n ∈ [(1 : Byte), 2, 16], 1 ≤ n.toNat ∧ n.toNat ≤ Config.taken.rkDepth + 1) ∧ 7 ≤ 4 * ((2 : Byte).toNat - 1) + 3 ∧
    (∀ n ∈ [(0 : Byte), 17], n.toNat = 0 ∨ Config.taken.rkDepth + 1 < n.toNat) := by decide

theorem test_witness_StepAppliesTheNextLayer :
    (∀ p ∈ [Phase.idle, .win, .sub, .shf, .mix, .ak, .fsub, .wout], (at_ 7 p 3 1).err = false ∧ (at_ 7 p 3 1).ph = p) ∧
    (at_ 7 .ak 16 14).ri.toNat < Config.taken.rkDepth := by decide

theorem test_witness_RunFinishesTheEncryption :
    (at_ 7 .idle 0 0).err = false ∧ (at_ 7 .idle 0 0).ph = .idle ∧
    ∀ m ∈ [at_ 7 .win 16 0, at_ 7 .sub 16 14, at_ 7 .shf 2 0, at_ 7 .mix 3 1, at_ 7 .ak 16 14, at_ 7 .fsub 1 0,
      at_ 7 .wout 16 15], m.err = false ∧ m.ph ≠ .idle ∧ m.ControllerInv := by decide

theorem test_witness_EncryptIsTheRoundLoop :
    (1 ≤ 1 ∧ 1 - 1 ≤ ([] : List Word64).length) ∧ (1 ≤ 16 ∧ 16 - 1 ≤ State.reset.rk.toList.length ∧ 14 < 16 - 1) := by
  decide

theorem test_witness_LayersComputeEncrypt : 1 ≤ 16 ∧ 16 ≤ Config.taken.rkDepth + 1 := by decide

theorem test_witness_ConsumedRoundKeysDoNotMatter :
    let m := at_ 7 .fsub 2 1
    m.err = false ∧ m.ph ≠ .idle ∧ m.ControllerInv ∧ (⟨0, by decide⟩ : Fin m.cfg.rkDepth).val < m.ri.toNat := by decide

/-- `RegisterLoads` and every other statement with an `EncodesN`, `EncodesA` or `EncodesD`: an illegal word is issued.
-/
theorem test_witness_IllegalWord :
    let m := State.reset.setHost [.issue (cmdWord 0x40 3 1)]
    m.host = [.issue (cmdWord 0x40 3 1)] ∧ m.err = false ∧ (1 : Word64) ≠ 0 := by decide

/-- `FaultEntryIsPrecise` and `CausesOfFaults`: an illegal word, an operand out of its range, a `STEP` in phase 0, and a
word issued with `ERR = 1`. -/
theorem test_witness_FaultEntryIsPrecise :
    State.reset.err = false ∧
    left State.err (step (State.reset.setHost [.issue 0])) = some true ∧
    left State.err (step (State.reset.setHost [.issue 0x070F0000000000000001])) = some true ∧
    left State.err (step (State.reset.setHost [.issue 0x41000000000000000000])) = some true ∧
    faulty.err = true ∧ left State.err (step (faulty.setHost [.issue 0])) = some true := by decide

theorem test_witness_FaultedBlockRefuses :
    let m := faulty.setHost [.issue 0x18000000000000000000]
    m.host = [.issue 0x18000000000000000000] ∧ m.err = true := by decide

theorem test_witness_OnlyResetLeavesTheFaultedState :
    let m := faulty.setHost [.issue 0x0100000000000000000F, .issue 0]
    m.err = true ∧ HostAction.reset ∉ m.host := by decide

/-- `WhoWritesWhat`: a command that changes `S`, one that changes a register each of the others names, one that faults.
-/
theorem test_witness_WhoWritesWhat :
    (left State.s (exec .sub (keyed 7))).any (· ≠ (keyed 7).s) ∧
    (left State.k0 (exec (.ldk0 9) (keyed 7))).any (· ≠ (keyed 7).k0) ∧
    (left State.k1 (exec (.ldk1 9) (keyed 7))).any (· ≠ (keyed 7).k1) ∧
    (left State.wk (exec (.ldwk 9) (keyed 7))).any (· ≠ (keyed 7).wk) ∧
    (left State.sbox (exec (.ldsb 9) (keyed 7))).any (· ≠ (keyed 7).sbox) ∧
    (left State.perm (exec (.ldpm 9) (keyed 7))).any (· ≠ (keyed 7).perm) ∧
    (left (fun t => t.rk.toList) (exec (.ldrk 14 9) (keyed 7))).any (· ≠ (keyed 7).rk.toList) ∧
    (left State.rcm (exec (.setm 1) (keyed 7))).any (· ≠ (keyed 7).rcm) ∧
    (left State.nr (exec (.start 16) (keyed 7))).any (· ≠ (keyed 7).nr) ∧
    (left State.ph (exec (.start 16) (keyed 7))).any (· ≠ (keyed 7).ph) ∧
    (left State.err (exec .step (keyed 7))).any (· ≠ (keyed 7).err) := by decide

/-- `WhenAnEncryptionIsComplete` and `StartEndsCompleteness`: a run that ends complete, one that ends with an encryption
in progress, and words that are no controller command. -/
theorem test_witness_WhenAnEncryptionIsComplete :
    (runOf Config.taken [.issue (encode (.enc 1))]).any (fun p => p.doneStands && !p.state.err) = true ∧
    (runOf Config.taken [.issue (encode (.start 1))]).any (fun p => !p.state.err && !(p.state.ph == .idle)) = true ∧
    1 ≤ (16 : Byte).toNat ∧ (16 : Byte).toNat ≤ Config.taken.rkDepth + 1 ∧
    decode 0 = .illegal .unlistedOp ∧ decode 0x11000000000000000000 = .cmd .rds ∧
    Instr.rds.opcode ∉ [0x40, 0x41, 0x42, 0x43] := by decide

theorem test_witness_ConfigurationIsFixed : Sys2Proof.core.run 3 State.reset = .next State.reset := by rfl

/-- `ModeMattersToKschOnly` and `HalfKeysMatterToKschOnly`. -/
theorem test_witness_ModeMattersToKschOnly :
    (Instr.rnd 14).opcode ∉ [0x08, 0x18, 0x30] ∧ (Instr.rnd 14).opcode ∉ [0x02, 0x03, 0x12, 0x13, 0x30] ∧
    (left State.err (exec (.rnd 14) (keyed 7))).isSome := by decide

theorem test_witness_LaterActionsDoNotMatter :
    Sys2Proof.core.run [HostAction.reset].length { State.reset with host := [.reset] } = .next State.reset := by rfl

theorem test_witness_OtherCommandsAlwaysAnswer : Instr.rdst ≠ .step ∧ Instr.rdst ≠ .run := by decide

/-- `EveryActionAnswers`, and the controller's part of the invariant in every phase. -/
theorem test_witness_EveryActionAnswers :
    (∀ m ∈ [State.reset, at_ 7 .win 1 0, at_ 7 .sub 16 14, at_ 7 .ak 16 14, at_ 7 .wout 16 15], m.ControllerInv) ∧
    ((at_ 7 .idle 16 15).setDone true).ControllerInv := ⟨by decide, by decide⟩

/-- `EveryStepKeepsTheInvariant`: a faulted state with a word still to come meets it, and the step answers. -/
theorem test_witness_EveryStepKeepsTheInvariant :
    (faulty.setHost [.issue 0]).Inv ∧ (left State.err (step (faulty.setHost [.issue 0]))).isSome :=
  ⟨⟨by decide, by decide⟩, by decide⟩

end Sys2Proof.Tests
end

section
/-! The configuration is no state (rule R8): no command, no illegal word and no `reset` changes it, so no run does. -/

namespace Sys2Proof.Machine

/-! ### Runs of any machine of the host's interface -/

/-- A run of `k + 1` steps that answers is one step that answers, and then `k` steps. -/
theorem core_run_succ_next {M : Host.Core} {k : Nat} {m t : M.State} (h : M.run (k + 1) m = .next t) :
    ∃ u, M.step m = .next u ∧ M.run k u = .next t := by
  rw [Host.Core.run] at h
  split at h
  case h_1 u hu => exact ⟨u, hu, h⟩
  all_goals cases h

/-- What every step keeps, every run keeps. -/
theorem core_run_invariant {M : Host.Core} {P : M.State → Prop} (hstep : ∀ m t, P m → M.step m = .next t → P t)
    {k : Nat} {m t : M.State} (hm : P m) (h : M.run k m = .next t) : P t := by
  induction k generalizing m with
  | zero => exact Host.Outcome.next.inj h ▸ hm
  | succ k ih =>
    obtain ⟨u, hu, ht⟩ := core_run_succ_next h
    exact ih (hstep m u hm hu) ht

/-! ### The configuration -/

theorem advance_cfg {m t : State} (h : advance m = some t) : t.cfg = m.cfg := by rw [advance_frame h]

theorem advanceAll_cfg {fuel : Nat} {m t : State} (h : advanceAll fuel m = some t) : t.cfg = m.cfg := by
  rw [advanceAll_frame h]

/-- No command's effect is on the configuration: every one is a register update or a chain of micro-steps. -/
theorem Effect.cfg_eq {i : Instr} {m t : State} (h : Effect i m t) : t.cfg = m.cfg := by
  cases h
  case step _ h => exact advance_cfg h
  case run _ h => exact advanceAll_cfg h
  case enc _ h => exact (advanceAll_cfg h).trans (startEncryption_cfg _ m)
  all_goals rfl

theorem exec_cfg {i : Instr} {m t : State} (h : exec i m = .next t) : t.cfg = m.cfg := by
  obtain ⟨-, -, rfl⟩ | ⟨-, -, rfl⟩ | ⟨-, -, -, rfl⟩ | ⟨-, u, hu, rfl⟩ := exec_cases h
  · rfl
  · rfl
  · rfl
  · exact hu.cfg_eq

/-- What an illegal word did: it was refused, or it raised `ILLEGAL_CMD` (rules R34, R88, R90). -/
theorem execIllegal_next {cw : CmdWord} {m t : State} (h : execIllegal cw m = .next t) :
    (m.err = true ∧ t = { m with dout := some 0 }) ∨
    (m.err = false ∧ t = m.faulted .illegalCmd (cwOp cw) (cwA cw)) := by
  obtain hr | ⟨he, h⟩ := unlessFaulted_next h
  · exact .inl hr
  · exact .inr ⟨he, (Host.Outcome.next.inj h).symm⟩

theorem runWord_cfg {cw : CmdWord} {m t : State} (h : runWord cw m = .next t) : t.cfg = m.cfg := by
  cases hd : decode cw with
  | cmd i => exact exec_cfg (runWord_cmd hd m ▸ h)
  | illegal why => obtain ⟨-, rfl⟩ | ⟨-, rfl⟩ := execIllegal_next (runWord_illegal hd m ▸ h) <;> rfl

/-- No step changes the configuration, whatever the host's action (rules R8, R98). -/
theorem step_cfg {m t : State} (h : step m = .next t) : t.cfg = m.cfg := by
  match hh : m.host with
  | [] => rw [Host.Outcome.next.inj ((step_idle hh).symm.trans h)]
  | .reset :: rest => rw [← Host.Outcome.next.inj ((step_reset hh).symm.trans h)]; rfl
  | .issue cw :: rest => exact (runWord_cfg ((step_issue hh).symm.trans h)).trans (State.setHost_cfg m rest)

/-- Settles O45: the configuration is kept by every step (`step_cfg`), and so by every run. -/
theorem configurationIsFixed : Obligations.ConfigurationIsFixed := by
  unfold Obligations.ConfigurationIsFixed
  intro k m t h
  exact core_run_invariant (M := Sys2Proof.core) (P := fun u : State => u.cfg = m.cfg)
    (fun _ _ hu hs => (step_cfg hs).trans hu) rfl h

end Sys2Proof.Machine
end

section
/-! What a command's effect changes and what it leaves (rules R10 to R18): the frame of each command, read off its
effect. -/

namespace Sys2Proof.Machine

/-- The loop of `ENC` writes `S` and the controller's registers only, `NR` with the round count (rule R81). -/
theorem encLoop_frame {a : Byte} {fuel : Nat} {m t : State} (h : advanceAll fuel (startEncryption a m) = some t) :
    t = { m with s := t.s, nr := a, ri := t.ri, ph := t.ph, done := t.done } := advanceAll_frame h

/-- Between `m` and `t` only the pieces of state changed that rules R10 to R17 let a command of opcode `op` change; the
fault record is left out. -/
structure WritesAllowed (op : Byte) (m t : State) : Prop where
  s : t.s ≠ m.s → op ∈ [0x01, 0x20, 0x21, 0x22, 0x23, 0x24, 0x25, 0x41, 0x42, 0x43]
  k0 : t.k0 ≠ m.k0 → op = 0x02
  k1 : t.k1 ≠ m.k1 → op = 0x03
  wk : t.wk ≠ m.wk → op = 0x04
  sbox : t.sbox ≠ m.sbox → op = 0x05
  perm : t.perm ≠ m.perm → op = 0x06
  rk : t.rk.toList ≠ m.rk.toList → op = 0x07 ∨ op = 0x30
  rcm : t.rcm ≠ m.rcm → op = 0x08
  nr : t.nr ≠ m.nr → op = 0x40 ∨ op = 0x43
  controller : t.ri ≠ m.ri ∨ t.ph ≠ m.ph ∨ t.done ≠ m.done → op ∈ [0x40, 0x41, 0x42, 0x43]
  cfg : t.cfg = m.cfg
  host : t.host = m.host

/-- A command writes what its rule names and nothing else. -/
theorem Effect.writesAllowed {i : Instr} {m t : State} (h : Effect i m t) : WritesAllowed i.opcode m t := by
  cases h
  case step _ h =>
    rw [advance_frame h]
    constructor <;> simp [Instr.opcode]
  case run _ h =>
    rw [advanceAll_frame h]
    constructor <;> simp [Instr.opcode]
  case enc _ h =>
    rw [encLoop_frame h]
    constructor <;> simp [Instr.opcode]
  all_goals constructor <;> simp [Instr.opcode, rkWrite, startEncryption]

/-- No command's effect is on the fault record: only raising a fault writes it (rule R18). -/
theorem Effect.record_eq {i : Instr} {m t : State} (h : Effect i m t) :
    t.err = m.err ∧ t.cause = m.cause ∧ t.fop = m.fop ∧ t.fa = m.fa := by
  cases h
  case step _ h => rw [advance_frame h]; simp
  case run _ h => rw [advanceAll_frame h]; simp
  case enc _ h => rw [encLoop_frame h]; simp
  all_goals simp [rkWrite, startEncryption]

/-- A refused command, or one that raises a fault, changes nothing but the fault record and the response. -/
theorem writesAllowed_record (op : Byte) (m : State) (e : Bool) (c : Cause) (fop fa : Byte) (d : Option Word64) :
    WritesAllowed op m { m with err := e, cause := c, fop := fop, fa := fa, dout := d } := by
  constructor <;> simp

theorem exec_writesAllowed {i : Instr} {m t : State} (h : exec i m = .next t) : WritesAllowed i.opcode m t := by
  obtain ⟨-, -, rfl⟩ | ⟨-, -, rfl⟩ | ⟨-, -, -, rfl⟩ | ⟨-, u, hu, rfl⟩ := exec_cases h
  · exact writesAllowed_record ..
  · exact writesAllowed_record ..
  · exact writesAllowed_record ..
  · exact { hu.writesAllowed with }

/-- The fault record changes only in raising a fault (rules R18, R85). -/
theorem exec_record {i : Instr} {m t : State} (h : exec i m = .next t) :
    (m.err = false ∧ t.err = true) ∨ (t.err = m.err ∧ t.cause = m.cause ∧ t.fop = m.fop ∧ t.fa = m.fa) := by
  obtain ⟨-, -, rfl⟩ | ⟨he, -, rfl⟩ | ⟨he, -, -, rfl⟩ | ⟨-, u, hu, rfl⟩ := exec_cases h
  · exact .inr ⟨rfl, rfl, rfl, rfl⟩
  · exact .inl ⟨he, rfl⟩
  · exact .inl ⟨he, rfl⟩
  · exact .inr hu.record_eq

/-- Settles O44: the frame of every command (`exec_writesAllowed`), and of the fault record (`exec_record`). -/
theorem whoWritesWhat : Obligations.WhoWritesWhat := by
  unfold Obligations.WhoWritesWhat
  intro i m t h
  have hw := exec_writesAllowed h
  have hrec : t.err ≠ m.err ∨ t.cause ≠ m.cause ∨ t.fop ≠ m.fop ∨ t.fa ≠ m.fa → m.err = false ∧ t.err = true := by
    obtain hf | ⟨e, c, op, a⟩ := exec_record h
    · exact fun _ => hf
    · simp [e, c, op, a]
  exact ⟨hw.s, hw.k0, hw.k1, hw.wk, hw.sbox, hw.perm, hw.rk, hw.rcm, hw.nr, hw.controller, hrec, hw.cfg, hw.host⟩

end Sys2Proof.Machine
end

section
/-! The invariant of the machine (rules R18, R82, R86; log 16): it holds right after reset, and every step keeps it. The
controller's half is kept because an effect is a register update outside the controller, a start, or a chain of
micro-steps; the record's half because only raising a fault writes the record. -/

namespace Sys2Proof.Machine

/-! ### The controller's half -/

theorem resetOf_controllerInv (C : Config) : (State.resetOf C).ControllerInv := by
  simp [State.ControllerInv, State.resetOf]

/-- The loop keeps the controller's invariant. -/
theorem advanceAll_keeps_inv {m t : State} (h : m.ControllerInv)
    (ha : advanceAll (maxMicroSteps m.cfg.rkDepth) m = some t) : t.ControllerInv := by
  obtain ⟨t', ht', -, hinv⟩ := advanceAll_spec h (microStepsLeft_le h)
  exact Option.some.inj (ht'.symm.trans ha) ▸ hinv

theorem Effect.keeps_controllerInv {i : Instr} {m t : State} (h : Effect i m t) (hm : m.ControllerInv) :
    t.ControllerInv := by
  cases h
  case start hc => exact startEncryption_inv hc
  case step _ h => exact advance_keeps_inv hm h
  case run _ h => exact advanceAll_keeps_inv hm h
  case enc hc h => exact advanceAll_keeps_inv (startEncryption_inv hc) h
  all_goals apply controllerInv_congr hm <;> simp [rkWrite]

/-! ### The fault record's half -/

/-- With `ERR = 0` the record's invariant says that the record is empty. -/
theorem recordInv_of_clear {m : State} (he : m.err = false) (hc : m.cause = .none) (hop : m.fop = 0) (ha : m.fa = 0) :
    m.RecordInv := by
  simp [State.RecordInv, he, hc, hop, ha]

theorem resetOf_recordInv (C : Config) : (State.resetOf C).RecordInv := recordInv_of_clear rfl rfl rfl rfl

theorem recordInv_illegalCmd {m : State} {op a : Byte} (h : op ≠ 0x07) : (m.faulted .illegalCmd op a).RecordInv :=
  ⟨nofun, nofun, fun _ => h, nofun, nofun⟩

theorem recordInv_badOperand {m : State} {op a : Byte} (h : OperandOutOfRange m.cfg.rkDepth op a) :
    (m.faulted .badOperand op a).RecordInv :=
  ⟨nofun, nofun, nofun, fun _ => h, nofun⟩

theorem recordInv_badSequence {m : State} {op : Byte} (hp : m.ph = .idle) (hop : op = 0x41 ∨ op = 0x42) :
    (m.faulted .badSequence op 0).RecordInv :=
  ⟨nofun, nofun, nofun, nofun, fun _ => ⟨hop, rfl, hp⟩⟩

/-- A command that is not refused keeps the record's invariant: the record is empty before and after, or the command is
`RDST`, which changes nothing (rules R55, R90). -/
theorem Effect.keeps_recordInv {i : Instr} {m t : State} (h : Effect i m t) (he : m.err = false ∨ i = .rdst)
    (hm : m.RecordInv) : t.RecordInv := by
  obtain he | rfl := he
  · obtain ⟨hempty, -⟩ := hm
    obtain ⟨hc, hop, ha⟩ := hempty he
    obtain ⟨e, c, op, a⟩ := h.record_eq
    exact recordInv_of_clear (e.trans he) (c.trans hc) (op.trans hop) (a.trans ha)
  · cases h
    exact hm

/-! ### Every step -/

theorem resetOf_inv (C : Config) : (State.resetOf C).Inv := ⟨resetOf_controllerInv C, resetOf_recordInv C⟩

theorem exec_keeps_inv {i : Instr} {m t : State} (hm : m.Inv) (h : exec i m = .next t) : t.Inv := by
  obtain ⟨hctl, hrec⟩ := hm
  obtain ⟨-, -, rfl⟩ | ⟨-, ho, rfl⟩ | ⟨-, hp, rfl | rfl, rfl⟩ | ⟨he, u, hu, rfl⟩ := exec_cases h
  · exact ⟨hctl, hrec⟩
  · exact ⟨hctl, recordInv_badOperand ho⟩
  · exact ⟨hctl, recordInv_badSequence hp (.inl rfl)⟩
  · exact ⟨hctl, recordInv_badSequence hp (.inr rfl)⟩
  · exact ⟨hu.keeps_controllerInv hctl, hu.keeps_recordInv he hrec⟩

/-- Every word with the opcode of `LDRK` is well formed, so no illegal word has it (rules R33, R34). -/
theorem cwOp_ne_ldrk_of_illegal {cw : CmdWord} {why : Illegal} (h : decode cw = .illegal why) : cwOp cw ≠ 0x07 := by
  intro hop
  have hs : shapeOf (cwOp cw) = some (.ad .ldrk) := by rw [hop]; rfl
  simp [decode, hs, Shape.format, Format.okA, Format.okD, Format.usesA, Format.usesD] at h

theorem runWord_keeps_inv {cw : CmdWord} {m t : State} (hm : m.Inv) (h : runWord cw m = .next t) : t.Inv := by
  cases hd : decode cw with
  | cmd i => exact exec_keeps_inv hm (runWord_cmd hd m ▸ h)
  | illegal why =>
    obtain ⟨-, rfl⟩ | ⟨-, rfl⟩ := execIllegal_next (runWord_illegal hd m ▸ h)
    · exact hm
    · obtain ⟨hctl, -⟩ := hm
      exact ⟨hctl, recordInv_illegalCmd (cwOp_ne_ldrk_of_illegal hd)⟩

/-- Settles O54: a step is no action, a `reset`, or a word, and each keeps the invariant. -/
theorem everyStepKeepsTheInvariant : Obligations.EveryStepKeepsTheInvariant := by
  unfold Obligations.EveryStepKeepsTheInvariant
  intro m t hm h
  match hh : m.host with
  | [] => exact Host.Outcome.next.inj ((step_idle hh).symm.trans h) ▸ hm
  | .reset :: rest =>
    rw [← Host.Outcome.next.inj ((step_reset hh).symm.trans h)]
    exact resetOf_inv m.cfg
  | .issue cw :: rest => exact runWord_keeps_inv (m := m.setHost rest) hm ((step_issue hh).symm.trans h)

/-- Settles O53: `resetOf_inv`, and `State.reset` is the reset state of one configuration. -/
theorem invariantAtReset : Obligations.InvariantAtReset := by
  unfold Obligations.InvariantAtReset
  exact ⟨resetOf_inv Config.taken, resetOf_inv⟩

/-! ### The reset values (rule R19) -/

theorem resetOf_rk_get (C : Config) (i : Fin C.rkDepth) : (State.resetOf C).rk.get i = 0 := by
  simp [State.resetOf, Vector.get_eq_getElem]

theorem status_resetOf (C : Config) : status (State.resetOf C) = 0 := by
  simp [status, State.resetOf, Phase.code, RcMode.code, Cause.code]

/-- Settles O9: each value stands in the definition of the reset state, but for the words of `RK` and `STATUS`. -/
theorem resetValues : Obligations.ResetValues := by
  unfold Obligations.ResetValues
  exact ⟨rfl, fun C => ⟨rfl, rfl, rfl, rfl, rfl, rfl, rfl, resetOf_rk_get C, rfl, rfl, rfl, rfl, rfl, rfl, rfl, rfl, rfl,
    status_resetOf C⟩⟩

end Sys2Proof.Machine
end

section
/-! What a command does not look at (rules R11, R16): a command does the same from a state whose half-keys and
round-constant mode were replaced, as long as it neither writes them, shows them, nor schedules keys from them. -/

namespace Sys2Proof.Machine

/-- `m` with `K0`, `K1` and `RCM` replaced, each by a function of what it was. -/
def State.mapSchedule (f g : Word64 → Word64) (r : RcMode → RcMode) (m : State) : State :=
  { m with k0 := f m.k0, k1 := g m.k1, rcm := r m.rcm }

/-- The replacement keeps each value of `K0`, `K1` and `RCM` that the command writes there or answers; `KSCH`, which
reads all three, is left out. -/
def KeepsOperands (f g : Word64 → Word64) (r : RcMode → RcMode) (m : State) : Instr → Prop
  | .ldk0 d => f d = d
  | .ldk1 d => g d = d
  | .setm _ => ∀ md, r md = md
  | .rdk0 => f m.k0 = m.k0
  | .rdk1 => g m.k1 = m.k1
  | .rdst => r m.rcm = m.rcm
  | .ksch _ => False
  | _ => True

section
variable {f g : Word64 → Word64} {r : RcMode → RcMode} {i : Instr} {m t : State}

theorem advance_mapSchedule (h : advance m = some t) : advance (m.mapSchedule f g r) = some (t.mapSchedule f g r) := by
  have hw := advance_withOther h (f m.k0) (g m.k1) (r m.rcm) m.dout m.host
  rw [advance_frame h] at hw ⊢
  exact hw

theorem advanceAll_mapSchedule {fuel : Nat} (h : advanceAll fuel m = some t) :
    advanceAll fuel (m.mapSchedule f g r) = some (t.mapSchedule f g r) := by
  have hw := advanceAll_withOther h (f m.k0) (g m.k1) (r m.rcm) m.dout m.host
  rw [advanceAll_frame h] at hw ⊢
  exact hw

/-- A command's effect commutes with the replacement. -/
theorem Effect.mapSchedule (h : Effect i m t) (hi : KeepsOperands f g r m i) :
    Effect i (m.mapSchedule f g r) (t.mapSchedule f g r) := by
  cases h
  case ldk0 d =>
    have e : f d = d := hi
    simpa [State.mapSchedule, State.setK0, e] using Effect.ldk0 (m.mapSchedule f g r) d
  case ldk1 d =>
    have e : g d = d := hi
    simpa [State.mapSchedule, State.setK1, e] using Effect.ldk1 (m.mapSchedule f g r) d
  case setm a md h =>
    have e : r md = md := hi md
    simpa [State.mapSchedule, State.setRcm, e] using Effect.setm (m.mapSchedule f g r) a md h
  case ksch => exact hi.elim
  case step hp h => exact .step _ _ hp (advance_mapSchedule h)
  case run hp h => exact .run _ _ hp (advanceAll_mapSchedule h)
  case enc hc h => exact .enc _ _ _ hc (advanceAll_mapSchedule h)
  case ldrk j h => exact .ldrk (m.mapSchedule f g r) _ _ j h
  case rdrk j h => exact .rdrk (m.mapSchedule f g r) _ j h
  case ak j h => exact .ak (m.mapSchedule f g r) _ j h
  case rnd j h => exact .rnd (m.mapSchedule f g r) _ j h
  case start h => exact .start (m.mapSchedule f g r) _ h
  all_goals constructor

theorem response_mapSchedule (hi : KeepsOperands f g r m i) : response (m.mapSchedule f g r) i = response m i := by
  cases i
  case rdk0 | rdk1 => exact hi
  case rdst => simp [response, status, State.mapSchedule, show r m.rcm = m.rcm from hi]
  all_goals rfl

theorem exec_mapSchedule (hi : KeepsOperands f g r m i) (h : exec i m = .next t) :
    exec i (m.mapSchedule f g r) = .next (t.mapSchedule f g r) := by
  obtain ⟨he, hr, rfl⟩ | ⟨he, ho, rfl⟩ | ⟨he, hp, hs, rfl⟩ | ⟨he, u, hu, rfl⟩ := exec_cases h
  · exact exec_refused he hr
  · exact exec_badOperand he ho
  · exact exec_badSequence he hp hs
  · rw [exec_of_effect (hu.mapSchedule hi) he, response_mapSchedule hi]
    rfl

/-- Replacing the mode alone: only `SETM`, `RDST` and `KSCH` have to do with it (rule R16). -/
theorem keepsOperands_mode (hi : i.opcode ∉ [0x08, 0x18, 0x30]) (md : RcMode) :
    KeepsOperands id id (fun _ => md) m i := by
  cases i
  case setm | rdst | ksch => simp [Instr.opcode] at hi
  case ldk0 | ldk1 | rdk0 | rdk1 => exact rfl
  all_goals exact True.intro

/-- Replacing the half-keys alone: only their loads, their reads and `KSCH` have to do with them (rule R11). -/
theorem keepsOperands_halfKeys (hi : i.opcode ∉ [0x02, 0x03, 0x12, 0x13, 0x30]) (x y : Word64) :
    KeepsOperands (fun _ => x) (fun _ => y) id m i := by
  cases i
  case ldk0 | ldk1 | rdk0 | rdk1 | ksch => simp [Instr.opcode] at hi
  case setm => exact fun _ => rfl
  case rdst => exact rfl
  all_goals exact True.intro

end

/-- Settles O46: the replacement keeps both half-keys and makes the mode `md`. -/
theorem modeMattersToKschOnly : Obligations.ModeMattersToKschOnly := by
  unfold Obligations.ModeMattersToKschOnly
  intro i m t md hi h
  exact exec_mapSchedule (keepsOperands_mode hi md) h

/-- Settles O47: the replacement makes the half-keys `x` and `y` and keeps the mode. -/
theorem halfKeysMatterToKschOnly : Obligations.HalfKeysMatterToKschOnly := by
  unfold Obligations.HalfKeysMatterToKschOnly
  intro i m t x y hi h
  exact exec_mapSchedule (keepsOperands_halfKeys hi x y) h

end Sys2Proof.Machine
end

section
/-! The byte order of a transport (rule R24): the slices of a value that are its bytes, and that putting them together
again gives the value. -/

namespace Sys2Proof

/-- Byte `k` of a 64-bit value is its slice from bit `56 - 8k` up (rule R24). -/
theorem bytesOfWord64_getElem? (v : Word64) {k : Nat} (h : k < 8) :
    (bytesOfWord64 v)[k]? = some (v.extractLsb' (56 - 8 * k) 8) := by
  simp [bytesOfWord64, h]

/-- Eight bytes, put together again, are the value (rule R24). -/
theorem word64OfBytes_bytesOfWord64 (v : Word64) (rest : List Byte) :
    word64OfBytes (bytesOfWord64 v ++ rest) = some (v, rest) := by
  have h : v.extractLsb' 56 8 ++ v.extractLsb' 48 8 ++ v.extractLsb' 40 8 ++ v.extractLsb' 32 8 ++
      v.extractLsb' 24 8 ++ v.extractLsb' 16 8 ++ v.extractLsb' 8 8 ++ v.extractLsb' 0 8 = v := by
    rw [slice_split v 48 8 8, slice_split v 40 8 16, slice_split v 32 8 24, slice_split v 24 8 32,
      slice_split v 16 8 40, slice_split v 8 8 48, slice_split v 0 8 56]
    exact slice_all v
  exact congrArg (fun u => some (u, rest)) h

/-- The bytes of a command word are its opcode, its operand and the bytes of its data (rules R24, R30). -/
theorem bytesOfCmdWord_cmdWord (op a : Byte) (d : Word64) :
    bytesOfCmdWord (cmdWord op a d) = op :: a :: bytesOfWord64 d := by
  have hd : (List.range 8).map (fun k => (cmdWord op a d).extractLsb' (56 - 8 * k) 8) = bytesOfWord64 d :=
    List.map_congr_left fun k hk => BitVec.extractLsb'_append_eq_of_add_le (by have := List.mem_range.mp hk; omega)
  rw [← hd]
  exact congrArg₂ (fun x y => x :: y :: _) (cwOp_cmdWord op a d) (cwA_cmdWord op a d)

/-- A command word sent as bytes is read back (rule R24). -/
theorem cmdWordOfBytes_bytesOfCmdWord (cw : CmdWord) (rest : List Byte) :
    cmdWordOfBytes (bytesOfCmdWord cw ++ rest) = some (cw, rest) := by
  rw [← cmdWord_fields cw, bytesOfCmdWord_cmdWord]
  simp [cmdWordOfBytes, word64OfBytes_bytesOfWord64]

end Sys2Proof

namespace Sys2Proof.Machine

/-- A byte of a value is two neighbouring nibbles of it, the first one high (rules R6, R24). -/
theorem byte_eq_nib_append (v : Word64) (k : Fin 8) :
    v.extractLsb' (56 - 8 * k.val) 8 = nib v ⟨2 * k.val, by omega⟩ ++ nib v ⟨2 * k.val + 1, by omega⟩ := by
  have hi : 60 - 4 * (2 * k.val) = 56 - 8 * k.val + 4 := by omega
  have lo : 60 - 4 * (2 * k.val + 1) = 56 - 8 * k.val := by omega
  simp only [nib, hi, lo]
  exact (slice_split v (56 - 8 * k.val) 4 4).symm

/-- Settles O7: the bytes are neighbouring slices of the word (`bytesOfCmdWord_cmdWord`, `word64OfBytes_bytesOfWord64`),
and each splits into two nibbles (`byte_eq_nib_append`). -/
theorem transportBytesRoundTrip : Obligations.TransportBytesRoundTrip := by
  unfold Obligations.TransportBytesRoundTrip
  refine ⟨cmdWordOfBytes_bytesOfCmdWord, bytesOfCmdWord_cmdWord, word64OfBytes_bytesOfWord64, fun v k => ?_⟩
  rw [bytesOfWord64_getElem? v k.isLt, byte_eq_nib_append]

end Sys2Proof.Machine
end

section
/-! The host's next word and the command it stands for (rules R37, R110). -/

namespace Sys2Proof.Machine

/-- A word of the opcode table's numbering that is read as a command decodes to it (log 12). -/
theorem decode_of_decodeTableWord {nbits w : Nat} {i : Instr} (h : decodeTableWord nbits w = some i) :
    decode (BitVec.ofNat 80 (w % 2 ^ nbits)) = .cmd i := by
  unfold decodeTableWord at h
  split at h
  case h_1 j hj => rw [hj, Option.some.inj h]
  case h_2 => cases h

/-- A step with a well-formed word to issue runs its command, with the later actions still to come. -/
theorem step_issue_cmd {m : State} {cw : CmdWord} {rest : List HostAction} {i : Instr}
    (hh : m.host = .issue cw :: rest) (hd : decode cw = .cmd i) : step m = exec i (m.setHost rest) :=
  (step_issue hh).trans (runWord_cmd hd _)

/-- Settles O6: `step_issue_cmd`, also for the word that `withFetchWord` places, and `step_idle`. -/
theorem stepRunsTheDecodedCommand : Obligations.StepRunsTheDecodedCommand := by
  unfold Obligations.StepRunsTheDecodedCommand
  refine ⟨fun _ _ _ _ hh hd => step_issue_cmd hh hd, fun _ hh => step_idle hh, fun m nbits w i h => ?_⟩
  exact step_issue_cmd (m := m.withFetchWord nbits w) rfl (decode_of_decodeTableWord h)

end Sys2Proof.Machine
end

section
/-! A load and then its read (rule R26), through the effect of the load and the response of the read. -/

namespace Sys2Proof.Machine

/-- A command that answers a state is followed by the others from that state (rule R28). -/
theorem runCommands_cons {i : Instr} {m t : State} (h : exec i m = .next t) (is : List Instr) :
    runCommands (i :: is) m = runCommands is t := by
  simp only [runCommands, h]

/-- Two commands that have their effect, one after the other, answer what the second reads in the state that the first
leaves. -/
theorem runCommands_pair_dout {i j : Instr} {m u v : State} {d : Word64} (he : m.err = false) (hi : Effect i m u)
    (hj : Effect j { u with dout := some (response m i) } v)
    (hd : response { u with dout := some (response m i) } j = d) :
    ∃ t, runCommands [i, j] m = .next t ∧ t.dout = some d := by
  obtain ⟨hu, -⟩ := hi.record_eq
  rw [runCommands_cons (exec_of_effect hi (.inl he)), runCommands_cons (exec_of_effect hj (.inl (hu.trans he)))]
  exact ⟨_, rfl, congrArg some hd⟩

/-- Settles O19: each read answers the register its load wrote; the tables by `packLut_unpackLut`, the round-key memory
by `rkRead_rkWrite_same`. -/
theorem loadsReadBack : Obligations.LoadsReadBack := by
  unfold Obligations.LoadsReadBack
  intro m a d he ha p hp
  have hidx : indexOperand m.cfg.rkDepth a = some ⟨a.toNat, ha⟩ := indexOperand_of_lt ha
  have hread : response { rkWrite m ⟨a.toNat, ha⟩ d with dout := some 0 } (.rdrk a) = d := by
    show ((indexOperand m.cfg.rkDepth a).map (rkRead (rkWrite m ⟨a.toNat, ha⟩ d))).getD 0 = d
    rw [hidx]
    exact rkRead_rkWrite_same m _ d
  simp only [List.mem_cons, List.not_mem_nil, or_false] at hp
  obtain rfl | rfl | rfl | rfl | rfl | rfl | rfl := hp
  · exact runCommands_pair_dout he (.lds m d) (.rds _) rfl
  · exact runCommands_pair_dout he (.ldk0 m d) (.rdk0 _) rfl
  · exact runCommands_pair_dout he (.ldk1 m d) (.rdk1 _) rfl
  · exact runCommands_pair_dout he (.ldwk m d) (.rdwk _) rfl
  · exact runCommands_pair_dout he (.ldsb m d) (.rdsb _) (packLut_unpackLut d)
  · exact runCommands_pair_dout he (.ldpm m d) (.rdpm _) (packLut_unpackLut d)
  · exact runCommands_pair_dout he (.ldrk m a d _ hidx) (.rdrk _ a _ hidx) hread

end Sys2Proof.Machine
end

section
/-! What a step does to the block does not depend on the actions still to come (rule R28; log 4): every command, illegal
word and `reset` does the same with another list of them, and leaves that list. -/

namespace Sys2Proof.Machine

section
variable {i : Instr} {m t : State}

theorem advance_setHost (h : advance m = some t) (as : List HostAction) :
    advance (m.setHost as) = some (t.setHost as) := by
  have hw := advance_withOther h m.k0 m.k1 m.rcm m.dout as
  rw [advance_frame h] at hw ⊢
  exact hw

theorem advanceAll_setHost {fuel : Nat} (h : advanceAll fuel m = some t) (as : List HostAction) :
    advanceAll fuel (m.setHost as) = some (t.setHost as) := by
  have hw := advanceAll_withOther h m.k0 m.k1 m.rcm m.dout as
  rw [advanceAll_frame h] at hw ⊢
  exact hw

/-- A command's effect does not depend on the actions after it. -/
theorem Effect.setHost (h : Effect i m t) (as : List HostAction) : Effect i (m.setHost as) (t.setHost as) := by
  cases h
  case ldrk j h => exact .ldrk (m.setHost as) _ _ j h
  case rdrk j h => exact .rdrk (m.setHost as) _ j h
  case ak j h => exact .ak (m.setHost as) _ j h
  case rnd j h => exact .rnd (m.setHost as) _ j h
  case start h => exact .start (m.setHost as) _ h
  case ksch h => exact .ksch (m.setHost as) _ h
  case step hp h => exact .step _ _ hp (advance_setHost h as)
  case run hp h => exact .run _ _ hp (advanceAll_setHost h as)
  case enc hc h => exact .enc _ _ _ hc (advanceAll_setHost h as)
  case setm h => exact .setm (m.setHost as) _ _ h
  all_goals constructor

theorem response_setHost (m : State) (i : Instr) (as : List HostAction) :
    response (m.setHost as) i = response m i := by
  cases i <;> rfl

theorem exec_setHost (h : exec i m = .next t) (as : List HostAction) :
    exec i (m.setHost as) = .next (t.setHost as) := by
  obtain ⟨he, hr, rfl⟩ | ⟨he, ho, rfl⟩ | ⟨he, hp, hs, rfl⟩ | ⟨he, u, hu, rfl⟩ := exec_cases h
  · exact exec_refused he hr
  · exact exec_badOperand he ho
  · exact exec_badSequence he hp hs
  · rw [exec_of_effect (hu.setHost as) he, response_setHost]
    rfl

theorem execIllegal_setHost {cw : CmdWord} (h : execIllegal cw m = .next t) (as : List HostAction) :
    execIllegal cw (m.setHost as) = .next (t.setHost as) := by
  obtain ⟨he, rfl⟩ | ⟨he, rfl⟩ := execIllegal_next h
  · exact unlessFaulted_faulted he
  · exact unlessFaulted_clear he

theorem runWord_setHost {cw : CmdWord} (h : runWord cw m = .next t) (as : List HostAction) :
    runWord cw (m.setHost as) = .next (t.setHost as) := by
  cases hd : decode cw with
  | cmd i =>
    rw [runWord_cmd hd] at h ⊢
    exact exec_setHost h as
  | illegal why =>
    rw [runWord_illegal hd] at h ⊢
    exact execIllegal_setHost h as

end

/-- A step that answers, and then a run that does, are a run. -/
theorem core_run_of_step_next {M : Host.Core} {k : Nat} {m u t : M.State} (hu : M.step m = .next u)
    (ht : M.run k u = .next t) : M.run (k + 1) m = .next t := by
  simp only [Host.Core.run, hu, ht]

/-- A step performs the first action, and what it does to the block does not depend on those after it. -/
theorem step_setHost_cons {a : HostAction} {as : List HostAction} {m t : State}
    (h : step (m.setHost (a :: as)) = .next t) (bs : List HostAction) :
    step (m.setHost (a :: bs)) = .next (t.setHost bs) := by
  cases a with
  | reset =>
    obtain rfl := Host.Outcome.next.inj h
    rfl
  | issue cw => exact runWord_setHost (m := m.setHost as) h bs

/-- Settles O50, by induction on the first actions: each of the steps that perform them is the same with `bs` still to
come (`step_setHost_cons`). -/
theorem laterActionsDoNotMatter : Obligations.LaterActionsDoNotMatter := by
  unfold Obligations.LaterActionsDoNotMatter
  intro m t as bs h
  induction as generalizing m with
  | nil =>
    obtain rfl := Host.Outcome.next.inj h
    rfl
  | cons a as ih =>
    obtain ⟨u, hu, ht⟩ := core_run_succ_next h
    have hrest (cs : List HostAction) : step (m.setHost (a :: cs)) = .next (u.setHost cs) := step_setHost_cons hu cs
    have hu' : u = u.setHost as := Host.Outcome.next.inj (hu.symm.trans (hrest as))
    rw [hu'] at ht
    exact core_run_of_step_next (hrest (as ++ bs)) (ih u ht)

end Sys2Proof.Machine
end

section
/-! Decoding and encoding are inverse (rule R37): every command's opcode has the row of the opcode map that builds the
command from its fields, and what a row builds has the row's opcode and the fields it was built from. -/

namespace Sys2Proof

/-! ### From a command to its word and back -/

/-- A command's opcode has a row in the opcode map; the command's fields pass the checks of the row's format, and the
row builds the command from them (rules R31, R33). -/
theorem exists_shapeOf_opcode (i : Instr) :
    ∃ sh, shapeOf i.opcode = some sh ∧ sh.format.okA i.fieldA = true ∧ sh.format.okD i.fieldD = true ∧
      sh.build i.fieldA i.fieldD = i := by
  cases i <;> exact ⟨_, rfl, rfl, rfl, rfl⟩

theorem decode_encode (i : Instr) : decode (encode i) = .cmd i := by
  obtain ⟨sh, hs, hA, hD, hb⟩ := exists_shapeOf_opcode i
  simp [decode, hs, hA, hD, hb]

/-- Settles O1: the row of the command's opcode accepts the command's fields and builds the command again. -/
theorem decodeOfEncode : Obligations.DecodeOfEncode := by
  unfold Obligations.DecodeOfEncode
  exact decode_encode

/-! ### From a word to its command and back -/

/-- Every command a shape builds has the opcode `op` and the fields it was built from, the others zero. -/
def Shape.EncodesWith (op : Byte) : Shape → Prop
  | .n i => encode i = cmdWord op 0 0
  | .a f => ∀ a, encode (f a) = cmdWord op a 0
  | .d f => ∀ d, encode (f d) = cmdWord op 0 d
  | .ad f => ∀ a d, encode (f a d) = cmdWord op a d

/-- Each row of the opcode map builds commands of its own opcode (rule R33). -/
theorem opcodeTable_encodesWith : ∀ row ∈ opcodeTable, row.2.EncodesWith row.1 := by
  simp only [opcodeTable, List.forall_mem_append, List.forall_mem_cons]
  simp [Shape.EncodesWith, encode, Instr.opcode, Instr.fieldA, Instr.fieldD]

/-- An opcode that is looked up has its row in the opcode map: no two rows share one. -/
theorem shapeOf_eq_some_iff {op : Byte} {sh : Shape} : shapeOf op = some sh ↔ (op, sh) ∈ opcodeTable := by
  rw [shapeOf, List.lookup_eq_some_iff]
  constructor
  · rintro ⟨l₁, l₂, hl, -⟩
    simp [hl]
  · intro h
    obtain ⟨l₁, l₂, hl⟩ := List.append_of_mem h
    have hnd := opcodeTable_nodup
    rw [hl, List.map_append, List.map_cons, List.nodup_append] at hnd
    obtain ⟨-, -, hne⟩ := hnd
    refine ⟨l₁, l₂, hl, fun p hp => bne_iff_ne.mpr fun e => ?_⟩
    exact hne p.1 (List.mem_map_of_mem hp) op List.mem_cons_self e.symm

/-- Fields that pass a shape's checks are the fields of the command it builds from them (rules R31, R34). -/
theorem Shape.EncodesWith.encode_build {op a : Byte} {d : Word64} {sh : Shape} (h : sh.EncodesWith op)
    (hA : sh.format.okA a = true) (hD : sh.format.okD d = true) : encode (sh.build a d) = cmdWord op a d := by
  cases sh with
  | n i =>
    obtain rfl : a = 0 := by simpa [Shape.format, Format.okA, Format.usesA] using hA
    obtain rfl : d = 0 := by simpa [Shape.format, Format.okD, Format.usesD] using hD
    exact h
  | a f =>
    obtain rfl : d = 0 := by simpa [Shape.format, Format.okD, Format.usesD] using hD
    exact h a
  | d f =>
    obtain rfl : a = 0 := by simpa [Shape.format, Format.okA, Format.usesA] using hA
    exact h d
  | ad f => exact h a d

theorem encode_of_decode {cw : CmdWord} {i : Instr} (h : decode cw = .cmd i) : encode i = cw := by
  obtain ⟨-, e⟩ | ⟨sh, hs, ⟨-, e⟩ | ⟨-, -, e⟩ | ⟨hA, hD, e⟩⟩ := decode_cases cw
  · simp [e] at h
  · simp [e] at h
  · simp [e] at h
  · obtain rfl : sh.build (cwA cw) (cwD cw) = i := Decoded.cmd.inj (e.symm.trans h)
    rw [(opcodeTable_encodesWith _ (shapeOf_eq_some_iff.mp hs)).encode_build hA hD, cmdWord_fields]

/-- Settles O2: the row that decoded the word rebuilds its three fields (`Shape.EncodesWith.encode_build`), and they are
the word. -/
theorem encodeOfDecode : Obligations.EncodeOfDecode := by
  unfold Obligations.EncodeOfDecode
  exact fun _ _ => encode_of_decode

/-- Settles O5: eight fixed words, each decoded by evaluation. -/
theorem exampleWordsDecode : Obligations.ExampleWordsDecode := by
  unfold Obligations.ExampleWordsDecode
  decide

end Sys2Proof
end

section
/-! Well-formed and illegal words (rules R31, R34): which opcodes have which format, what the checks of a format ask of
the fields, and what a word that fails them raises. -/

namespace Sys2Proof

/-! ### The formats -/

/-- An opcode's format is that of its row in the opcode map (rules R31, R33). -/
theorem formatOf_eq_some_iff {op : Byte} {f : Format} :
    formatOf op = some f ↔ ∃ sh, (op, sh) ∈ opcodeTable ∧ sh.format = f := by
  simp only [formatOf, Option.map_eq_some_iff, shapeOf_eq_some_iff]

/-- The opcodes of each format (rule R33). -/
theorem formatOf_iff_mem (op : Byte) :
    (formatOf op = some .n ↔ op ∈ [0x11, 0x12, 0x13, 0x14, 0x15, 0x16, 0x18, 0x20, 0x21, 0x22, 0x24, 0x41, 0x42]) ∧
    (formatOf op = some .a ↔ op ∈ [0x08, 0x17, 0x23, 0x25, 0x30, 0x40, 0x43]) ∧
    (formatOf op = some .d ↔ op ∈ [0x01, 0x02, 0x03, 0x04, 0x05, 0x06]) ∧
    (formatOf op = some .ad ↔ op = 0x07) := by
  simp [formatOf_eq_some_iff, opcodeTable, or_and_right, exists_or, and_assoc, Shape.format]

/-- What rule R34 asks of the two fields, format by format. -/
theorem wellFormedFields_iff (f : Option Format) (a : Byte) (d : Word64) :
    wellFormedFields f a d = true ↔
      (f = some .n ∧ a = 0 ∧ d = 0) ∨ (f = some .a ∧ d = 0) ∨ (f = some .d ∧ a = 0) ∨ f = some .ad := by
  match f with
  | none => simp [wellFormedFields]
  | some f => cases f <;> simp [wellFormedFields, Format.okA, Format.okD, Format.usesA, Format.usesD]

/-! ### Well formed is to decode to a command, ill formed to decode to an illegal word -/

/-- A word is well formed and a command, or neither (rules R34, R37). -/
theorem wellFormedWord_cases (cw : CmdWord) :
    (wellFormedWord cw = true ∧ ∃ i, decode cw = .cmd i) ∨
    (wellFormedWord cw = false ∧ ∃ why, decode cw = .illegal why) := by
  obtain ⟨hf, e⟩ | ⟨sh, hs, ⟨hA, e⟩ | ⟨hA, hD, e⟩ | ⟨hA, hD, e⟩⟩ := decode_cases cw
  · exact .inr ⟨by simp [wellFormedWord, wellFormedFields, hf], _, e⟩
  · exact .inr ⟨by simp [wellFormedWord, wellFormedFields, formatOf, hs, hA], _, e⟩
  · exact .inr ⟨by simp [wellFormedWord, wellFormedFields, formatOf, hs, hD], _, e⟩
  · exact .inl ⟨by simp [wellFormedWord, wellFormedFields, formatOf, hs, hA, hD], _, e⟩

theorem wellFormedWord_iff (cw : CmdWord) : wellFormedWord cw = true ↔ ∃ i, decode cw = .cmd i := by
  obtain ⟨hw, i, e⟩ | ⟨hw, why, e⟩ := wellFormedWord_cases cw <;> simp [hw, e]

theorem not_wellFormedWord_iff (cw : CmdWord) : wellFormedWord cw = false ↔ ∃ why, decode cw = .illegal why := by
  obtain ⟨hw, i, e⟩ | ⟨hw, why, e⟩ := wellFormedWord_cases cw <;> simp [hw, e]

/-- Settles O3: the checks of each format (`wellFormedFields_iff`) for the opcodes that have it (`formatOf_iff_mem`). -/
theorem wellFormedWords : Obligations.WellFormedWords := by
  unfold Obligations.WellFormedWords
  refine ⟨fun op a d => ?_, wellFormedWord_iff⟩
  obtain ⟨hn, ha, hd, had⟩ := formatOf_iff_mem op
  rw [wellFormedWord, cwOp_cmdWord, cwA_cmdWord, cwD_cmdWord, wellFormedFields_iff, hn, ha, hd, had]

end Sys2Proof

namespace Sys2Proof.Machine

/-! ### What a word raises -/

/-- An illegal word raises `ILLEGAL_CMD` with its own opcode and operand (rules R34, R85). -/
theorem step_issue_illegal {m : State} {cw : CmdWord} {rest : List HostAction} {why : Illegal}
    (hh : m.host = .issue cw :: rest) (he : m.err = false) (hd : decode cw = .illegal why) :
    step m = .next ((m.setHost rest).faulted .illegalCmd (cwOp cw) (cwA cw)) :=
  calc step m
    _ = execIllegal cw (m.setHost rest) := (step_issue hh).trans (runWord_illegal hd _)
    _ = _ := unlessFaulted_clear he

/-- Only 27 of the 256 opcodes are listed (rules R33, R34). -/
theorem unlisted_opcodes_count :
    ((List.range 256).filter fun n => (formatOf (BitVec.ofNat 8 n)).isNone).length = 229 := by
  decide +kernel

/-- Settles O4: an ill-formed word decodes to an illegal one, which faults (`step_issue_illegal`); a command's own word
decodes to the command, which checks its operand (`exec_badOperand`). -/
theorem illegalWordsFault : Obligations.IllegalWordsFault := by
  unfold Obligations.IllegalWordsFault
  refine ⟨unlisted_opcodes_count, not_wellFormedWord_iff, fun m cw rest hh he hw => ?_, fun m i rest hh he ho => ?_⟩
  · obtain ⟨why, hd⟩ := (not_wellFormedWord_iff cw).mp hw
    exact step_issue_illegal hh he hd
  · exact (step_issue_cmd hh (decode_encode i)).trans (exec_badOperand he ho)

end Sys2Proof.Machine
end

section
/-! The pseudo-instructions (rule R39): the commands of an expansion, each by its effect on the state that the one
before it leaves. -/

namespace Sys2Proof.Machine

/-- A command that has its effect is followed by the others from the state it leaves (rules R28, R36). -/
theorem runCommands_cons_effect {i : Instr} {m u : State} {is : List Instr} (hi : Effect i m u) (he : m.err = false) :
    runCommands (i :: is) m = runCommands is { u with dout := some (response m i) } :=
  runCommands_cons (exec_of_effect hi (.inl he)) is

/-- The controller's loop does not look at the last response (rule R36). -/
theorem advanceAll_setDout {fuel : Nat} {m t : State} (h : advanceAll fuel m = some t) (v : Option Word64) :
    advanceAll fuel (m.setDout v) = some (t.setDout v) := by
  have hw := advanceAll_withOther h m.k0 m.k1 m.rcm v m.host
  rw [advanceAll_frame h] at hw ⊢
  exact hw

/-- `LDKEYS` loads the two half-keys and changes nothing else. -/
theorem runCommands_ldkeys {m : State} (he : m.err = false) (x y : Word64) :
    runCommands [.ldk0 x, .ldk1 y] m = .next { m with k0 := x, k1 := y, dout := some 0 } :=
  calc runCommands [.ldk0 x, .ldk1 y] m
    _ = runCommands [.ldk1 y] { m with k0 := x, dout := some 0 } := runCommands_cons_effect (.ldk0 m x) he
    _ = .next { m with k0 := x, k1 := y, dout := some 0 } := runCommands_cons_effect (.ldk1 _ y) he

/-- `ROUNDX a` applies the four layers of a round, one command each (rule R60). -/
theorem runCommands_roundx {m : State} {a : Byte} {j : Fin m.cfg.rkDepth} (he : m.err = false)
    (hj : indexOperand m.cfg.rkDepth a = some j) :
    runCommands [.sub, .shf, .mix, .ak a] m =
      .next { m with s := roundFunction m.s m.sbox m.perm (rkRead m j), dout := some 0 } :=
  calc runCommands [.sub, .shf, .mix, .ak a] m
    _ = runCommands [.shf, .mix, .ak a] { m with s := substitute m.s m.sbox, dout := some 0 } :=
      runCommands_cons_effect (.sub m) he
    _ = runCommands [.mix, .ak a] { m with s := shuffle (substitute m.s m.sbox) m.perm, dout := some 0 } :=
      runCommands_cons_effect (.shf _) he
    _ = runCommands [.ak a] { m with s := diffuse (shuffle (substitute m.s m.sbox) m.perm), dout := some 0 } :=
      runCommands_cons_effect (.mix _) he
    _ = .next { m with s := roundFunction m.s m.sbox m.perm (rkRead m j), dout := some 0 } :=
      runCommands_cons_effect (.ak { m with s := _, dout := some 0 } a j hj) he

/-- `ENCS n` leaves the state at which the loop of `ENC n` ends (rules R78, R80, R81). -/
theorem runCommands_encs {m u : State} {n : Byte} (he : m.err = false) (hc : isCount m.cfg.rkDepth n = true)
    (hu : advanceAll (maxMicroSteps m.cfg.rkDepth) (startEncryption n m) = some u) :
    runCommands [.start n, .run] m = .next { u with dout := some 0 } := by
  have hrun : Effect .run ((startEncryption n m).setDout (some 0)) (u.setDout (some 0)) :=
    .run _ _ Phase.noConfusion (advanceAll_setDout hu _)
  have hclear : ((startEncryption n m).setDout (some 0)).err = false := by simpa [startEncryption] using he
  calc runCommands [.start n, .run] m
    _ = runCommands [.run] ((startEncryption n m).setDout (some 0)) := runCommands_cons_effect (.start m n hc) he
    _ = .next { u with dout := some 0 } := runCommands_cons_effect (u := u.setDout (some 0)) hrun hclear

/-- Settles O8: the net effect of each expansion (`runCommands_ldkeys`, `runCommands_roundx`, `runCommands_encs`) is the
effect of the command it stands for. -/
theorem pseudoInstructions : Obligations.PseudoInstructions := by
  unfold Obligations.PseudoInstructions
  refine ⟨fun _ _ => rfl, fun _ => rfl, fun _ => rfl, fun m x y he => runCommands_ldkeys he x y,
    fun m a he ha => ?_, fun m n he h1 h2 => ?_⟩
  · have hj := indexOperand_of_lt ha
    exact ⟨_, exec_of_effect (.rnd m a _ hj) (.inl he), runCommands_roundx he hj⟩
  · have hc : isCount m.cfg.rkDepth n = true := isCount_iff.mpr ⟨h1, h2⟩
    obtain ⟨u, hu, -⟩ := startEncryption_runs hc
    exact ⟨_, exec_of_effect (.enc m u n hc hu) (.inl he), runCommands_encs he hc hu⟩

end Sys2Proof.Machine
end

section
/-! The words of one opcode (rules R31, R33, R34): what a row of the opcode map makes of the two fields `A` and `D`, one
lemma per format. -/

namespace Sys2Proof.Machine

section
variable {op : Byte}

/-- A word whose opcode has a row passes the checks of the row's format in rule R88's order, and is then the command the
row builds. -/
theorem decode_cmdWord {sh : Shape} (h : shapeOf op = some sh) (a : Byte) (d : Word64) :
    decode (cmdWord op a d) =
      if !sh.format.okA a then .illegal .reservedA
      else if !sh.format.okD d then .illegal .reservedD
      else .cmd (sh.build a d) := by
  simp only [decode, cwOp_cmdWord, cwA_cmdWord, cwD_cmdWord, h]

/-- Issuing a word that decodes to an illegal one raises `ILLEGAL_CMD` with the word's own fields. -/
theorem illegalWord_of_decode {a : Byte} {d : Word64} {why : Illegal} (h : decode (cmdWord op a d) = .illegal why) :
    IllegalWord op a d := by
  intro m rest hh he
  have hs := step_issue_illegal hh he h
  rwa [cwOp_cmdWord, cwA_cmdWord] at hs

theorem decode_cmdWord_n {i : Instr} (h : shapeOf op = some (.n i)) (a : Byte) (d : Word64) :
    decode (cmdWord op a d) =
      if a = 0 then (if d = 0 then .cmd i else .illegal .reservedD) else .illegal .reservedA := by
  by_cases ha : a = 0 <;> by_cases hd : d = 0 <;>
    simp [decode_cmdWord h, Shape.format, Shape.build, Format.okA, Format.okD, Format.usesA, Format.usesD, ha, hd]

/-- A format that uses neither field rejects any that is not zero. -/
theorem exists_illegal_of_n {i : Instr} (h : shapeOf op = some (.n i)) {a : Byte} {d : Word64} (had : a ≠ 0 ∨ d ≠ 0) :
    ∃ why, decode (cmdWord op a d) = .illegal why := by
  rw [decode_cmdWord_n h]
  by_cases ha : a = 0
  · have hd : d ≠ 0 := had.resolve_left (not_not_intro ha)
    exact ⟨.reservedD, by rw [if_pos ha, if_neg hd]⟩
  · exact ⟨.reservedA, if_neg ha⟩

theorem encodesN_of_shapeOf {i : Instr} (h : shapeOf op = some (.n i)) : EncodesN op i := by
  refine fun a d => ⟨decode_cmdWord_n h a d, fun had => ?_⟩
  obtain ⟨why, hw⟩ := exists_illegal_of_n h had
  exact illegalWord_of_decode hw

theorem encodesA_of_shapeOf {c : Byte → Instr} (h : shapeOf op = some (.a c)) : EncodesA op c := by
  intro a d
  have hdec : decode (cmdWord op a d) = if d = 0 then .cmd (c a) else .illegal .reservedD := by
    by_cases hd : d = 0 <;>
      simp [decode_cmdWord h, Shape.format, Shape.build, Format.okA, Format.okD, Format.usesA, Format.usesD, hd]
  exact ⟨hdec, fun hd => illegalWord_of_decode (hdec.trans (if_neg hd))⟩

theorem encodesD_of_shapeOf {c : Word64 → Instr} (h : shapeOf op = some (.d c)) : EncodesD op c := by
  intro a d
  have hdec : decode (cmdWord op a d) = if a = 0 then .cmd (c d) else .illegal .reservedA := by
    by_cases ha : a = 0 <;>
      simp [decode_cmdWord h, Shape.format, Shape.build, Format.okA, Format.okD, Format.usesA, Format.usesD, ha]
  exact ⟨hdec, fun ha => illegalWord_of_decode (hdec.trans (if_neg ha))⟩

theorem encodesAD_of_shapeOf {c : Byte → Word64 → Instr} (h : shapeOf op = some (.ad c)) : EncodesAD op c :=
  fun a d => decode_cmdWord h a d

end

end Sys2Proof.Machine
end

section
/-! The sixteen load, configuration and read commands (40_data_movement.md), each by its effect and its response. -/

namespace Sys2Proof.Machine

/-! ### Registers and tables -/

/-- Settles O11: each command's effect is the update of its register. -/
theorem registerLoads : Obligations.RegisterLoads := by
  unfold Obligations.RegisterLoads
  refine ⟨⟨encodesD_of_shapeOf rfl, encodesD_of_shapeOf rfl, encodesD_of_shapeOf rfl, encodesD_of_shapeOf rfl⟩,
    fun m d he => ⟨?_, ?_, ?_, ?_⟩⟩
  · exact exec_of_effect (.lds m d) (.inl he)
  · exact exec_of_effect (.ldk0 m d) (.inl he)
  · exact exec_of_effect (.ldk1 m d) (.inl he)
  · exact exec_of_effect (.ldwk m d) (.inl he)

/-- Settles O15: each command's response is its register. -/
theorem registerReads : Obligations.RegisterReads := by
  unfold Obligations.RegisterReads
  refine ⟨⟨encodesN_of_shapeOf rfl, encodesN_of_shapeOf rfl, encodesN_of_shapeOf rfl, encodesN_of_shapeOf rfl⟩,
    fun m he => ⟨?_, ?_, ?_, ?_⟩⟩
  · exact exec_of_effect (.rds m) (.inl he)
  · exact exec_of_effect (.rdk0 m) (.inl he)
  · exact exec_of_effect (.rdk1 m) (.inl he)
  · exact exec_of_effect (.rdwk m) (.inl he)

section
variable {m : State} {d : Word64} {T : Lut}

/-- The table is named, not written out, so that no proof evaluates its 16 entries. -/
theorem exec_ldsb (he : m.err = false) (hT : unpackLut d = T) :
    exec (.ldsb d) m = .next { m with sbox := T, dout := some 0 } :=
  exec_of_effect (hT ▸ Effect.ldsb m d) (.inl he)

/-- As `exec_ldsb`, for the cell-shuffle table. -/
theorem exec_ldpm (he : m.err = false) (hT : unpackLut d = T) :
    exec (.ldpm d) m = .next { m with perm := T, dout := some 0 } :=
  exec_of_effect (hT ▸ Effect.ldpm m d) (.inl he)

end

/-- Settles O12: the table both commands write is the nibbles of `D` (`unpackLut_get`). -/
theorem tableLoads : Obligations.TableLoads := by
  unfold Obligations.TableLoads
  exact ⟨⟨encodesD_of_shapeOf rfl, encodesD_of_shapeOf rfl⟩, fun m d he =>
    ⟨unpackLut d, unpackLut_get d, exec_ldsb he rfl, exec_ldpm he rfl⟩⟩

/-- Settles O16: the nibbles of the packed table are its entries (`nib_packLut`). -/
theorem tableReads : Obligations.TableReads := by
  unfold Obligations.TableReads
  refine ⟨⟨encodesN_of_shapeOf rfl, encodesN_of_shapeOf rfl⟩, fun m he => ⟨?_, ?_⟩⟩
  · exact ⟨packLut m.sbox, nib_packLut m.sbox, exec_of_effect (.rdsb m) (.inl he)⟩
  · exact ⟨packLut m.perm, nib_packLut m.perm, exec_of_effect (.rdpm m) (.inl he)⟩

/-! ### The round-key memory -/

/-- With an index in range `RDRK` answers the word at that index (rule R54). -/
theorem response_rdrk {m : State} {a : Byte} {j : Fin m.cfg.rkDepth} (h : indexOperand m.cfg.rkDepth a = some j) :
    response m (.rdrk a) = rkRead m j := by
  simp [response, h]

/-- Settles O13: the written memory is that of `rkWrite`, whose reads `rkRead_rkWrite_same` and `rkRead_rkWrite_other`
give. -/
theorem roundKeyLoad : Obligations.RoundKeyLoad := by
  unfold Obligations.RoundKeyLoad
  refine ⟨encodesAD_of_shapeOf rfl, fun m a d h he => ?_, fun m a d he h => ?_⟩
  · refine ⟨m.rk.set a.toNat d, rkRead_rkWrite_same m ⟨a.toNat, h⟩ d, fun j hj => ?_, ?_⟩
    · exact rkRead_rkWrite_other m (a := ⟨a.toNat, h⟩) d (Fin.ne_of_val_ne hj.symm)
    · exact exec_of_effect (.ldrk m a d _ (indexOperand_of_lt h)) (.inl he)
  · exact exec_badOperand he (.inl ⟨.inl rfl, h⟩)

/-- Settles O17: `response_rdrk` below `RKDEPTH`, `exec_badOperand` from it on. -/
theorem roundKeyRead : Obligations.RoundKeyRead := by
  unfold Obligations.RoundKeyRead
  refine ⟨encodesA_of_shapeOf rfl, fun m a h he => ?_, fun m a he h => ?_⟩
  · have hj := indexOperand_of_lt h
    rw [exec_of_effect (.rdrk m a _ hj) (.inl he), response_rdrk hj]
    rfl
  · exact exec_badOperand he (.inl ⟨.inr (.inl rfl), h⟩)

/-! ### The mode -/

/-- An operand of 2 or less is the mode whose code is its two low bits (rules R16, R47). -/
theorem exists_modeOperand {a : Byte} (h : a.toNat ≤ 2) :
    ∃ md, modeOperand a = some md ∧ md.code = a.extractLsb' 0 2 := by
  obtain ⟨rfl, e⟩ | ⟨rfl, e⟩ | ⟨rfl, e⟩ | ⟨hgt, -⟩ := modeOperand_cases a
  · exact ⟨_, e, rfl⟩
  · exact ⟨_, e, rfl⟩
  · exact ⟨_, e, rfl⟩
  · omega

/-- Settles O14: `exists_modeOperand` up to 2, `exec_badOperand` above. -/
theorem modeSetting : Obligations.ModeSetting := by
  unfold Obligations.ModeSetting
  refine ⟨encodesA_of_shapeOf rfl, fun m a he h => ?_, fun m a he h => ?_⟩
  · obtain ⟨md, hmd, hcode⟩ := exists_modeOperand h
    exact ⟨md, hcode, exec_of_effect (.setm m a md hmd) (.inl he)⟩
  · exact exec_badOperand he (.inr (.inr ⟨rfl, h⟩))

/-! ### The status word -/

/-- Above its lowest field, `CAUSE`, the status word is the concatenation of the others. -/
theorem status_slice_above_cause (m : State) {k n : Nat} (h : 4 ≤ k) :
    (status m).extractLsb' k n =
      (0#16 ++ m.fop ++ m.fa ++ m.nr ++ m.ri ++ 0#5 ++ m.ph.code ++ m.rcm.code ++ BitVec.ofBool m.done ++
        BitVec.ofBool m.err).extractLsb' (k - 4) n :=
  BitVec.extractLsb'_append_eq_of_le h

/-- The status word has each field at its bits, and 0 in bits 15:11 and 63:48 (rules R18, R55). -/
theorem status_fields (m : State) :
    (status m).extractLsb' 0 4 = m.cause.code ∧ (status m).extractLsb' 4 1 = BitVec.ofBool m.err ∧
    (status m).extractLsb' 5 1 = BitVec.ofBool m.done ∧ (status m).extractLsb' 6 2 = m.rcm.code ∧
    (status m).extractLsb' 8 3 = m.ph.code ∧ (status m).extractLsb' 11 5 = 0 ∧ (status m).extractLsb' 16 8 = m.ri ∧
    (status m).extractLsb' 24 8 = m.nr ∧ (status m).extractLsb' 32 8 = m.fa ∧ (status m).extractLsb' 40 8 = m.fop ∧
    (status m).extractLsb' 48 16 = 0 := by
  refine ⟨slice_low _ _, ?_⟩
  simp (disch := decide) only [status_slice_above_cause, BitVec.extractLsb'_append_eq_of_le,
    BitVec.extractLsb'_append_eq_of_add_le, Nat.reduceSub, slice_all, BitVec.ofNat_eq_ofNat, and_self]

/-- An illegal word is refused while `ERR = 1`: no state changes, and the response is 0 (rule R90). -/
theorem step_issue_illegal_refused {m : State} {cw : CmdWord} {rest : List HostAction} {why : Illegal}
    (hh : m.host = .issue cw :: rest) (he : m.err = true) (hd : decode cw = .illegal why) :
    step m = .next { m.setHost rest with dout := some 0 } :=
  calc step m
    _ = execIllegal cw (m.setHost rest) := (step_issue hh).trans (runWord_illegal hd _)
    _ = _ := unlessFaulted_faulted he

/-- Settles O18: `RDST` answers the status word (`status_fields`) and is not refused; an ill-formed one decodes to an
illegal word, which is. -/
theorem statusRead : Obligations.StatusRead := by
  unfold Obligations.StatusRead
  refine ⟨encodesN_of_shapeOf rfl, fun m => ⟨status m, ?_⟩, fun m a d rest hh he had => ?_⟩
  · obtain ⟨hcause, herr, hdone, hrcm, hph, hlow, hri, hnr, hfa, hfop, hhigh⟩ := status_fields m
    exact ⟨hcause, herr, hdone, hrcm, hph, hlow, hri, hnr, hfa, hfop, hhigh, exec_of_effect (.rdst m) (.inr rfl)⟩
  · obtain ⟨why, hw⟩ := exists_illegal_of_n (op := 0x18) rfl had
    exact step_issue_illegal_refused hh he hw

end Sys2Proof.Machine
end

section
/-! The layers nibble by nibble (rules R56 to R58) and their algebra (rule R67): two states are equal when their nibbles
are (`ext_nib`), and `nib_substitute`, `nib_shuffle` and `nib_diffuse` say what a layer makes of each nibble. -/

namespace Sys2Proof.Machine

/-! ### Substitution and shuffle -/

/-- A nibble is the position of its number (rules R6, R7). -/
theorem position_eq {v : Nibble} {i : Fin 16} (h : v.toNat = i.val) : position v = i := Fin.ext h

theorem nib_substitute (s : Word64) (T : Lut) (i : Fin 16) : nib (substitute s T) i = T.get (position (nib s i)) :=
  nib_pack _ i

theorem nib_shuffle (s : Word64) (P : Lut) (i : Fin 16) : nib (shuffle s P) i = nib s (position (P.get i)) :=
  nib_pack _ i

/-- Settles O20: `nib_substitute`, where the input's nibble is the index `v`. -/
theorem substituteByNibble : Obligations.SubstituteByNibble := by
  unfold Obligations.SubstituteByNibble
  exact fun s T i v h => (nib_substitute s T i).trans (congrArg T.get (position_eq h))

/-- Settles O21: `nib_shuffle`, where the table's entry is the position `j`. -/
theorem shuffleByNibble : Obligations.ShuffleByNibble := by
  unfold Obligations.ShuffleByNibble
  exact fun s P i j h => (nib_shuffle s P i).trans (congrArg (nib s) (position_eq h))

theorem shuffle_xor (x y : Word64) (P : Lut) : shuffle (x ^^^ y) P = shuffle x P ^^^ shuffle y P :=
  ext_nib fun i => by simp only [nib_shuffle, nib_xor]

section
variable {T : Lut} (hT : ∀ i, (T.get i).toNat = i.val)
include hT

theorem shuffle_identity (s : Word64) : shuffle s T = s :=
  ext_nib fun i => by rw [nib_shuffle, position_eq (hT i)]

theorem substitute_identity (s : Word64) : substitute s T = s :=
  ext_nib fun i => by rw [nib_substitute]; exact BitVec.eq_of_toNat_eq (hT _)

end

/-- A table whose entries `Q` undoes is a permutation, so it undoes `Q` too: there are as many entries as positions. -/
theorem position_inverse {P Q : Lut} (h : ∀ i j : Fin 16, (P.get i).toNat = j.val → (Q.get j).toNat = i.val)
    (j : Fin 16) : position (P.get (position (Q.get j))) = j :=
  have hleft : Function.LeftInverse (fun j => position (Q.get j)) (fun i => position (P.get i)) :=
    fun i => position_eq (h i (position (P.get i)) rfl)
  hleft.rightInverse_of_card_le le_rfl j

theorem shuffle_shuffle {P Q : Lut} (h : ∀ i j : Fin 16, (P.get i).toNat = j.val → (Q.get j).toNat = i.val)
    (s : Word64) : shuffle (shuffle s P) Q = s :=
  ext_nib fun j => by rw [nib_shuffle, nib_shuffle, position_inverse h]

/-! ### Diffusion -/

/-- Position `k` of column `c` (rule R58). -/
def cell (c k : Fin 4) : Fin 16 := ⟨4 * c.val + k.val, by omega⟩

theorem exists_cell {i : Fin 16} {c : Fin 4} (h : i.val / 4 = c.val) : ∃ k, i = cell c k :=
  ⟨⟨i.val % 4, by omega⟩, Fin.ext (by simp only [cell]; omega)⟩

/-- The other positions of a column, for each of its four. -/
theorem column_others (c : Fin 4) :
    (column (cell c 0)).filter (· ≠ cell c 0) = [cell c 1, cell c 2, cell c 3] ∧
    (column (cell c 1)).filter (· ≠ cell c 1) = [cell c 0, cell c 2, cell c 3] ∧
    (column (cell c 2)).filter (· ≠ cell c 2) = [cell c 0, cell c 1, cell c 3] ∧
    (column (cell c 3)).filter (· ≠ cell c 3) = [cell c 0, cell c 1, cell c 2] := by
  revert c
  decide

/-- A nibble of `diffuse` is the XOR of the others of its column, once these are listed (rule R58). -/
theorem nib_diffuse_of_others {i p q r : Fin 16} (h : (column i).filter (· ≠ i) = [p, q, r]) (s : Word64) :
    nib (diffuse s) i = nib s p ^^^ nib s q ^^^ nib s r := by
  rw [diffuse, nib_pack, h]
  simp

/-- Settles O22: `nib_diffuse_of_others` at the four positions of a column (`column_others`). -/
theorem diffuseByColumn : Obligations.DiffuseByColumn := by
  unfold Obligations.DiffuseByColumn
  intro s c
  obtain ⟨h0, h1, h2, h3⟩ := column_others c
  exact ⟨nib_diffuse_of_others h0 s, nib_diffuse_of_others h1 s, nib_diffuse_of_others h2 s, nib_diffuse_of_others h3 s⟩

/-- The XOR of the four nibbles of a column, `t` of rule R67 (a). -/
def columnXor (s : Word64) (c : Fin 4) : Nibble :=
  nib s (cell c 0) ^^^ nib s (cell c 1) ^^^ nib s (cell c 2) ^^^ nib s (cell c 3)

/-- XOR with the same value twice changes nothing. -/
theorem xor_xor_self {w : Nat} (x k : BitVec w) : x ^^^ k ^^^ k = x := by
  rw [BitVec.xor_assoc, BitVec.xor_self, BitVec.xor_zero]

theorem xor_involutive {w : Nat} (k : BitVec w) : Function.Involutive fun x : BitVec w => x ^^^ k :=
  fun x => xor_xor_self x k

/-- Each nibble of `diffuse` is `t` XOR the input's nibble (rule R67 (a)). -/
theorem nib_diffuse (s : Word64) (c k : Fin 4) : nib (diffuse s) (cell c k) = columnXor s c ^^^ nib s (cell c k) := by
  have cancel {t o a : Nibble} (h : t = o ^^^ a) : o = t ^^^ a := by rw [h, xor_xor_self]
  obtain ⟨h0, h1, h2, h3⟩ := column_others c
  match k with
  | 0 => exact (nib_diffuse_of_others h0 s).trans (cancel (by unfold columnXor; ac_rfl))
  | 1 => exact (nib_diffuse_of_others h1 s).trans (cancel (by unfold columnXor; ac_rfl))
  | 2 => exact (nib_diffuse_of_others h2 s).trans (cancel (by unfold columnXor; ac_rfl))
  | 3 => exact (nib_diffuse_of_others h3 s).trans (cancel rfl)

/-- Two states are equal when their nibbles are, column by column. -/
theorem ext_cell {x y : Word64} (h : ∀ c k, nib x (cell c k) = nib y (cell c k)) : x = y := by
  refine ext_nib fun i => ?_
  obtain ⟨k, hk⟩ := exists_cell (i := i) (c := ⟨i.val / 4, by omega⟩) rfl
  rw [hk]
  exact h _ k

theorem columnXor_xor (x y : Word64) (c : Fin 4) : columnXor (x ^^^ y) c = columnXor x c ^^^ columnXor y c := by
  simp only [columnXor, nib_xor]
  ac_rfl

/-- `diffuse` keeps the XOR of each column: the four copies of `t` cancel (rule R67 (a)). -/
theorem columnXor_diffuse (s : Word64) (c : Fin 4) : columnXor (diffuse s) c = columnXor s c := by
  have four (t p q r u : Nibble) : (t ^^^ p) ^^^ (t ^^^ q) ^^^ (t ^^^ r) ^^^ (t ^^^ u) = p ^^^ q ^^^ r ^^^ u := by
    calc (t ^^^ p) ^^^ (t ^^^ q) ^^^ (t ^^^ r) ^^^ (t ^^^ u)
      _ = p ^^^ q ^^^ r ^^^ u ^^^ t ^^^ t ^^^ t ^^^ t := by ac_rfl
      _ = p ^^^ q ^^^ r ^^^ u := by simp only [xor_xor_self]
  rw [columnXor, nib_diffuse, nib_diffuse, nib_diffuse, nib_diffuse, four, columnXor]

theorem diffuse_diffuse (s : Word64) : diffuse (diffuse s) = s :=
  ext_cell fun c k => by
    rw [nib_diffuse, nib_diffuse, columnXor_diffuse, ← BitVec.xor_assoc, BitVec.xor_self, BitVec.zero_xor]

theorem diffuse_xor (x y : Word64) : diffuse (x ^^^ y) = diffuse x ^^^ diffuse y :=
  ext_cell fun c k => by
    simp only [nib_diffuse, nib_xor, columnXor_xor]
    ac_rfl

theorem diffuse_zero : diffuse 0 = 0 := by simpa using diffuse_xor 0 0

/-- A column with `t = 0` is kept (rule R67 (c)). -/
theorem nib_diffuse_of_columnXor_zero {s : Word64} {c : Fin 4} (h : columnXor s c = 0) (k : Fin 4) :
    nib (diffuse s) (cell c k) = nib s (cell c k) := by
  rw [nib_diffuse, h]
  exact BitVec.zero_xor

/-- Four equal nibbles XOR to 0 (rule R67 (c)). -/
theorem columnXor_of_equal {s : Word64} {c : Fin 4} {x : Nibble} (h : ∀ k, nib s (cell c k) = x) :
    columnXor s c = 0 := by
  rw [columnXor, h, h, h, h, xor_xor_self, BitVec.xor_self]
  rfl

/-- Settles O23: `diffuse` adds `t` to each nibble of a column (`nib_diffuse`); the shuffle and the substitution move
nibbles (`nib_shuffle`, `nib_substitute`). -/
theorem layerAlgebra : Obligations.LayerAlgebra := by
  unfold Obligations.LayerAlgebra
  refine ⟨diffuse_diffuse, diffuse_xor, diffuse_zero, fun s c h i hi => ?_, shuffle_xor,
    fun s T hT => ⟨shuffle_identity hT s, substitute_identity hT s⟩, fun s P Q h => shuffle_shuffle h s⟩
  obtain ⟨k, rfl⟩ := exists_cell hi
  have hzero : columnXor s c = 0 := by
    obtain hsum | ⟨x, hx⟩ := h
    · exact hsum
    · exact columnXor_of_equal fun k => hx (cell c k) (by simp only [cell]; omega)
  exact nib_diffuse_of_columnXor_zero hzero k

end Sys2Proof.Machine
end

section
/-! The six single-layer commands (41_layer_ops.md, rules R61 to R66), each by its effect on `S`. -/

namespace Sys2Proof.Machine

section
variable {m : State} (he : m.err = false)
include he

theorem exec_mix : exec .mix m = .next { m with s := diffuse m.s, dout := some 0 } :=
  exec_of_effect (.mix m) (.inl he)

theorem exec_wht : exec .wht m = .next { m with s := m.s ^^^ m.wk, dout := some 0 } :=
  exec_of_effect (.wht m) (.inl he)

theorem exec_ak {a : Byte} (h : a.toNat < m.cfg.rkDepth) :
    exec (.ak a) m = .next { m with s := m.s ^^^ m.rk.get ⟨a.toNat, h⟩, dout := some 0 } :=
  exec_of_effect (.ak m a _ (indexOperand_of_lt h)) (.inl he)

end

/-- Settles O24: each command's effect is its layer. -/
theorem layerCommands : Obligations.LayerCommands := by
  unfold Obligations.LayerCommands
  refine ⟨⟨encodesN_of_shapeOf rfl, encodesN_of_shapeOf rfl, encodesN_of_shapeOf rfl, encodesN_of_shapeOf rfl⟩,
    fun m he => ⟨?_, ?_, exec_mix he, exec_wht he⟩⟩
  · exact exec_of_effect (.sub m) (.inl he)
  · exact exec_of_effect (.shf m) (.inl he)

/-- Settles O25: below `RKDEPTH` each command's effect is its layer, or the round of rule R60; from it on,
`exec_badOperand`. -/
theorem roundKeyLayers : Obligations.RoundKeyLayers := by
  unfold Obligations.RoundKeyLayers
  refine ⟨⟨encodesA_of_shapeOf rfl, encodesA_of_shapeOf rfl⟩, fun m a h he => ⟨exec_ak he h, ?_⟩,
    fun m a he h => ⟨?_, ?_⟩⟩
  · exact exec_of_effect (.rnd m a _ (indexOperand_of_lt h)) (.inl he)
  · exact exec_badOperand he (.inl ⟨.inr (.inr (.inl rfl)), h⟩)
  · exact exec_badOperand he (.inl ⟨.inr (.inr (.inr rfl)), h⟩)

/-- A command that applies an involution to `S`, whatever `S` and the last response are, restores the state when it is
issued twice. -/
theorem runCommands_twice {i : Instr} {m : State} {f : Word64 → Word64} (hf : Function.Involutive f)
    (h : ∀ v d, exec i { m with s := v, dout := d } = .next { m with s := f v, dout := some 0 }) :
    runCommands [i, i] m = .next { m with dout := some 0 } :=
  calc runCommands [i, i] m
    _ = runCommands [i] { m with s := f m.s, dout := some 0 } := runCommands_cons (h m.s m.dout) _
    _ = .next { m with s := f (f m.s), dout := some 0 } := runCommands_cons (h _ _) _
    _ = .next { m with dout := some 0 } := by rw [hf]

/-- Settles O26: `diffuse` and the XOR with a key are involutions (`diffuse_diffuse`, `xor_involutive`). -/
theorem layersUndoThemselves : Obligations.LayersUndoThemselves := by
  unfold Obligations.LayersUndoThemselves
  intro m a he ha i hi
  simp only [List.mem_cons, List.not_mem_nil, or_false] at hi
  obtain rfl | rfl | rfl := hi
  · exact runCommands_twice diffuse_diffuse fun _ _ => exec_mix he
  · exact runCommands_twice (xor_involutive (m.rk.get ⟨a.toNat, ha⟩)) fun v d =>
      exec_ak (m := { m with s := v, dout := d }) he ha
  · exact runCommands_twice (xor_involutive m.wk) fun _ _ => exec_wht he

end Sys2Proof.Machine
end

section
/-! The key schedule (42_key_schedule.md): its keys and their number (rule R70), that a longer schedule extends a
shorter one (rule R71), and the round-key memory that `KSCH` leaves (rule R72). -/

namespace Sys2Proof.Machine

/-! ### The function -/

section
variable (C : Config) (k0 k1 : Word64) (md : RcMode)

theorem keySchedule_length {n : Nat} (h : n ≤ C.rkDepth + 1) : (keySchedule C k0 k1 md n).length = n - 1 := by
  simp [keySchedule]
  omega

theorem keySchedule_getElem? {n : Nat} {i : Fin C.rkDepth} (h : i.val < n - 1) :
    (keySchedule C k0 k1 md n)[i.val]? = some (roundKey C k0 k1 md i) := by
  simp [keySchedule, List.getElem?_take_of_lt h]

theorem keySchedule_getElem?_of_le {n i : Nat} (h : n - 1 ≤ i) : (keySchedule C k0 k1 md n)[i]? = none := by
  simp [keySchedule]
  omega

/-- A key does not depend on the number of rounds, so a longer schedule extends a shorter one (rule R71). -/
theorem keySchedule_prefix {n n' : Nat} (h : n ≤ n') : keySchedule C k0 k1 md n <+: keySchedule C k0 k1 md n' :=
  (List.take_prefix_take_left (Nat.sub_le_sub_right h 1)).map (roundKey C k0 k1 md)

end

/-- Settles O28: the number of keys (`keySchedule_length`), and each key (`keySchedule_getElem?`). -/
theorem keyScheduleFunction : Obligations.KeyScheduleFunction := by
  unfold Obligations.KeyScheduleFunction
  intro C k0 k1 md n _ hn
  exact ⟨keySchedule_length C k0 k1 md hn, fun i hi => keySchedule_getElem? C k0 k1 md hi⟩

/-- Settles O29: `keySchedule_prefix`. -/
theorem keySchedulePrefix : Obligations.KeySchedulePrefix := by
  unfold Obligations.KeySchedulePrefix
  exact fun C k0 k1 md _ _ h => keySchedule_prefix C k0 k1 md h

/-! ### The command -/

theorem writeKeys_get {depth : Nat} (rk : Vector Word64 depth) (ks : List Word64) (i : Fin depth) :
    (writeKeys rk ks).get i = ks[i.val]?.getD (rk.get i) := by
  simp [writeKeys, Vector.get_ofFn]

/-- With a round count in range `KSCH` writes the schedule's keys to the round-key memory, and nothing else. -/
theorem exec_ksch {m : State} {n : Byte} (he : m.err = false) (hn : isCount m.cfg.rkDepth n = true) :
    exec (.ksch n) m = .next { m with
      rk := writeKeys m.rk (keySchedule m.cfg m.k0 m.k1 m.rcm n.toNat), dout := some 0 } :=
  exec_of_effect (.ksch m n hn) (.inl he)

/-- Settles O27: the written memory is that of `writeKeys`, which holds a key of the schedule where there is one and
its old word elsewhere (`writeKeys_get`); outside the range of a round count, `exec_badOperand`. -/
theorem keyScheduleCommand : Obligations.KeyScheduleCommand := by
  unfold Obligations.KeyScheduleCommand
  refine ⟨encodesA_of_shapeOf rfl, fun m n he h1 h2 => ?_, fun m n he h => ?_⟩
  · refine ⟨_, fun i hi => ?_, fun i hi => ?_, exec_ksch he (isCount_iff.mpr ⟨h1, h2⟩)⟩
    · rw [writeKeys_get, keySchedule_getElem? _ _ _ _ (by omega)]
      rfl
    · rw [writeKeys_get, keySchedule_getElem?_of_le _ _ _ _ (by omega)]
      rfl
  · exact exec_badOperand he (.inr (.inl ⟨.inl rfl, h⟩))

end Sys2Proof.Machine
end

section
/-! The layers an encryption still takes (rules R75 to R77): a micro-step applies the first of them, so the loop applies
them all, and from its start they are the layers of rule R76, which compute `encrypt`. -/

namespace Sys2Proof.Machine

/-! ### The layers of rule R76 -/

/-- The layers of the full round with round key `r` (rules R60, R76). -/
def roundLayers {depth : Nat} (r : Fin depth) : List (Layer depth) := [.substitute, .shuffle, .diffuse, .addKey r]

/-- The layers from the full round `ri` on of an `nr`-round encryption (rule R76). -/
def layersFrom (depth nr ri : Nat) : List (Layer depth) :=
  (((List.finRange depth).take (nr - 1)).drop ri).flatMap roundLayers ++ [.substitute, .whiten]

theorem layerSequence_eq (depth n : Nat) : layerSequence depth n = .whiten :: layersFrom depth n 0 := rfl

theorem layersFrom_of_lt {depth nr ri : Nat} (h : ri < depth) (hr : ri + 1 < nr) :
    layersFrom depth nr ri =
      .substitute :: .shuffle :: .diffuse :: .addKey ⟨ri, h⟩ :: layersFrom depth nr (ri + 1) := by
  have hlt : ri < ((List.finRange depth).take (nr - 1)).length := by simp; omega
  simp [layersFrom, List.drop_eq_getElem_cons hlt, roundLayers]

theorem layersFrom_of_le {depth nr ri : Nat} (h : nr ≤ ri + 1) :
    layersFrom depth nr ri = [.substitute, .whiten] := by
  have hnil : ((List.finRange depth).take (nr - 1)).drop ri = [] := by simp; omega
  simp [layersFrom, hnil]

/-- The layers of a full round compute the round function (rule R60). -/
theorem foldl_roundLayers (m : State) (v : Word64) (r : Fin m.cfg.rkDepth) :
    (roundLayers r).foldl (applyLayer m) v = roundFunction v m.sbox m.perm (rkRead m r) := rfl

theorem finRange_map_rkRead (m : State) : (List.finRange m.cfg.rkDepth).map (rkRead m) = m.rk.toList := by
  refine List.ext_getElem (by simp) fun i _ _ => ?_
  simp [rkRead, Vector.get_eq_getElem]

/-- The layers of rule R76, applied in order, compute `encrypt` (rule R75). -/
theorem foldl_layerSequence (m : State) (p : Word64) (n : Nat) :
    (layerSequence m.cfg.rkDepth n).foldl (applyLayer m) p = encrypt p n m.sbox m.perm m.rk.toList m.wk := by
  rw [encrypt, ← finRange_map_rkRead, ← List.map_take, List.foldl_map, layerSequence_eq, layersFrom, List.drop_zero,
    List.foldl_cons, List.foldl_append, List.foldl_flatMap]
  simp only [foldl_roundLayers]
  rfl

/-- A layer reads the tables and keys only. -/
theorem applyLayer_congr (m : State) (s : Word64) (ri : Byte) (ph : Phase) (done : Bool) :
    applyLayer { m with s := s, ri := ri, ph := ph, done := done } = applyLayer m := by
  funext v l
  cases l <;> rfl

/-! ### The layers still to be applied -/

/-- The layers an encryption of `nr` rounds still takes at phase `ph` with round-key index `ri` (rule R77). -/
def layersLeft (depth nr ri : Nat) : Phase → List (Layer depth)
  | .idle => []
  | .win => layerSequence depth nr
  | .sub => layersFrom depth nr ri
  | .shf => (layersFrom depth nr ri).drop 1
  | .mix => (layersFrom depth nr ri).drop 2
  | .ak => (layersFrom depth nr ri).drop 3
  | .fsub => [.substitute, .whiten]
  | .wout => [.whiten]

/-- After the XOR of a round key come the next round, or the final layers (rule R77, row 5). -/
theorem layersLeft_phaseAfterKey (depth : Nat) {nr ri : Byte} (h : ri.toNat + 2 ≤ nr.toNat) :
    layersLeft depth nr.toNat (ri + 1).toNat (phaseAfterKey nr ri) = layersFrom depth nr.toNat (ri.toNat + 1) := by
  have hri : (ri + 1).toNat = ri.toNat + 1 := by bv_omega
  obtain ⟨e, he⟩ | ⟨-, he⟩ := phaseAfterKey_cases nr ri
  · rw [he, layersFrom_of_le (by omega)]
    rfl
  · rw [he, layersLeft, hri]

/-- After the input whitening come the first round, or the final layers (rule R77, row 1). -/
theorem layersLeft_afterWhitening (depth : Nat) (nr : Byte) :
    layersLeft depth nr.toNat 0 (if nr = 1 then .fsub else .sub) = layersFrom depth nr.toNat 0 := by
  by_cases hn : nr = 1
  · rw [if_pos hn, hn, layersFrom_of_le (by decide)]
    rfl
  · rw [if_neg hn]
    rfl

/-- A micro-step applies the first of the layers still to be applied, and leaves the others (rule R77). -/
theorem advance_layersLeft {m t : State} (hm : m.ControllerInv) (h : advance m = some t) :
    ∃ l, t.s = applyLayer m m.s l ∧
      layersLeft m.cfg.rkDepth m.nr.toNat m.ri.toNat m.ph =
        l :: layersLeft m.cfg.rkDepth m.nr.toNat t.ri.toNat t.ph := by
  obtain ⟨hwin, hround, -⟩ := hm
  unfold advance at h
  cases hp : m.ph <;> simp only [hp] at h hwin hround ⊢
  case idle => cases h
  case win =>
    cases h
    obtain ⟨hri, -⟩ := hwin trivial
    refine ⟨.whiten, rfl, (layerSequence_eq _ _).trans (congrArg (Layer.whiten :: ·) ?_)⟩
    simpa [hri] using (layersLeft_afterWhitening m.cfg.rkDepth m.nr).symm
  case fsub => cases h; exact ⟨.substitute, rfl, rfl⟩
  case wout => cases h; exact ⟨.whiten, rfl, rfl⟩
  all_goals
    obtain ⟨hlt, hle⟩ := hround (by simp)
    have hkey : m.ri.toNat < m.cfg.rkDepth := by omega
    have hfrom := layersFrom_of_lt hkey (nr := m.nr.toNat) (by omega)
  case sub => cases h; exact ⟨.substitute, rfl, by simp [layersLeft, hfrom]⟩
  case shf => cases h; exact ⟨.shuffle, rfl, by simp [layersLeft, hfrom]⟩
  case mix => cases h; exact ⟨.diffuse, rfl, by simp [layersLeft, hfrom]⟩
  case ak =>
    rw [indexOperand_of_lt hkey] at h
    cases h
    refine ⟨.addKey ⟨m.ri.toNat, hkey⟩, rfl, (congrArg (List.drop 3) hfrom).trans ?_⟩
    exact congrArg (Layer.addKey _ :: ·) (layersLeft_phaseAfterKey _ hlt).symm

/-- What every micro-step keeps, the loop keeps. -/
theorem advanceAll_invariant {P : State → Prop} (hstep : ∀ m t, P m → advance m = some t → P t) {fuel : Nat}
    {m t : State} (hm : P m) (h : advanceAll fuel m = some t) : P t := by
  induction fuel generalizing m with
  | zero =>
    obtain ⟨-, ht⟩ := Option.ite_none_right_eq_some.mp h
    exact Option.some.inj ht ▸ hm
  | succ fuel ih =>
    rw [advanceAll] at h
    split at h
    · exact Option.some.inj h ▸ hm
    · obtain ⟨u, hu, ht⟩ := Option.bind_eq_some_iff.mp h
      exact ih (hstep m u hm hu) ht

/-- What `S` holds when the encryption in progress ends: the layers it still takes, applied to `S`. -/
def State.finalS (m : State) : Word64 :=
  (layersLeft m.cfg.rkDepth m.nr.toNat m.ri.toNat m.ph).foldl (applyLayer m) m.s

theorem State.finalS_idle {m : State} (h : m.ph = .idle) : m.finalS = m.s := by
  simp [State.finalS, h, layersLeft]

theorem startEncryption_finalS (n : Byte) (m : State) :
    (startEncryption n m).finalS = encrypt m.s n.toNat m.sbox m.perm m.rk.toList m.wk :=
  foldl_layerSequence (startEncryption n m) m.s n.toNat

theorem advance_finalS {m t : State} (hm : m.ControllerInv) (h : advance m = some t) : t.finalS = m.finalS := by
  obtain ⟨l, hs, hl⟩ := advance_layersLeft hm h
  rw [State.finalS, State.finalS, hl, List.foldl_cons, ← hs]
  obtain ⟨s, ri, ph, done, rfl⟩ : ∃ s ri ph done, t = { m with s := s, ri := ri, ph := ph, done := done } :=
    ⟨_, _, _, _, advance_frame h⟩
  rw [applyLayer_congr]

theorem advanceAll_finalS {fuel : Nat} {m t : State} (hm : m.ControllerInv) (h : advanceAll fuel m = some t) :
    t.finalS = m.finalS :=
  have hkeep : t.ControllerInv ∧ t.finalS = m.finalS :=
    advanceAll_invariant (P := fun u => u.ControllerInv ∧ u.finalS = m.finalS)
      (fun _ _ ⟨hinv, hval⟩ ha => ⟨advance_keeps_inv hinv ha, (advance_finalS hinv ha).trans hval⟩) ⟨hm, rfl⟩ h
  hkeep.2

/-- With a round count in range `ENC n` leaves in `S` the encryption of `S`, and the controller as after the last step
(rule R81). -/
theorem exec_enc {m : State} {n : Byte} (he : m.err = false) (hn : isCount m.cfg.rkDepth n = true) :
    exec (.enc n) m = .next { m with
      s := encrypt m.s n.toNat m.sbox m.perm m.rk.toList m.wk,
      nr := n, ri := n - 1, ph := .idle, done := true, dout := some 0 } := by
  obtain ⟨t, ht, hidle, hinv⟩ := startEncryption_runs hn
  have hframe := encLoop_frame ht
  have hnr : t.nr = n := by rw [hframe]
  have hs : t.s = encrypt m.s n.toNat m.sbox m.perm m.rk.toList m.wk := by
    rw [← State.finalS_idle hidle, advanceAll_finalS (startEncryption_inv hn) ht, startEncryption_finalS]
  obtain ⟨hdone, hri⟩ : t.done = true ∧ t.ri = n - 1 := by
    obtain ⟨hn1, -⟩ := isCount_iff.mp hn
    obtain ⟨-, -, -, hend, -⟩ := hinv
    obtain ⟨-, hzero, -⟩ | ⟨hdone, hri, -⟩ := hend hidle
    · bv_omega
    · exact ⟨hdone, by bv_omega⟩
  rw [exec_of_effect (.enc m t n hn ht) (.inl he), hframe]
  simp only [hs, hri, hidle, hdone]
  rfl

end Sys2Proof.Machine
end

section
/-! The host's procedure (rule R100): what the loads and `KSCH` leave, and that `ENC` reads of the round-key memory only
the schedule of its own round count, with which what `KSCH` wrote begins. -/

namespace Sys2Proof.Machine

/-- The keys written stand at the front of the round-key memory (rule R72). -/
theorem prefix_writeKeys {depth : Nat} (rk : Vector Word64 depth) {ks : List Word64} (h : ks.length ≤ depth) :
    ks <+: (writeKeys rk ks).toList := by
  rw [List.prefix_iff_getElem]
  refine ⟨by simpa using h, fun i hi => ?_⟩
  simp [writeKeys, hi]

/-- An `n`-round encryption reads the first `n - 1` round keys only (rule R75). -/
theorem encrypt_of_prefix {ks rk : List Word64} {n : Nat} (hlen : ks.length = n - 1) (h : ks <+: rk) (p : Word64)
    (T P : Lut) (wk : Word64) : encrypt p n T P rk wk = encrypt p n T P ks wk := by
  rw [encrypt, encrypt, ← hlen, ← List.prefix_iff_eq_take.mp h, List.take_length]

/-- After `KSCH c` an encryption of at most `c` rounds is one under its own schedule (rules R71, R75). -/
theorem encrypt_writeKeys (C : Config) (rk : Vector Word64 C.rkDepth) (k0 k1 : Word64) (md : RcMode) {n c : Nat}
    (hn : n ≤ c) (hc : c ≤ C.rkDepth + 1) (p : Word64) (T P : Lut) (wk : Word64) :
    encrypt p n T P (writeKeys rk (keySchedule C k0 k1 md c)).toList wk =
      encrypt p n T P (keySchedule C k0 k1 md n) wk := by
  have hlen : (keySchedule C k0 k1 md c).length ≤ C.rkDepth := by
    rw [keySchedule_length C k0 k1 md hc]
    omega
  exact encrypt_of_prefix (keySchedule_length C k0 k1 md (hn.trans hc))
    ((keySchedule_prefix C k0 k1 md hn).trans (prefix_writeKeys rk hlen)) p T P wk

/-- The operand of `SETM` that a mode's code is stands for that mode (rules R16, R47). -/
theorem modeOperand_code (md : RcMode) : modeOperand (md.code.setWidth 8) = some md := by
  cases md <;> rfl

/-- What the loads and `KSCH c` of the host's procedure leave. The tables are named, as in `exec_ldsb`. -/
theorem runCommands_setup {m : State} {tb pm : Word64} {T P : Lut} {c : Byte} (he : m.err = false)
    (hT : unpackLut tb = T) (hP : unpackLut pm = P) (hc : isCount m.cfg.rkDepth c = true) (md : RcMode)
    (k0 k1 wk p : Word64) (is : List Instr) :
    runCommands (.ldsb tb :: .ldpm pm :: .setm (md.code.setWidth 8) :: .ldk0 k0 :: .ldk1 k1 :: .ksch c :: .ldwk wk ::
        .lds p :: is) m =
      runCommands is { m with
        s := p, k0 := k0, k1 := k1, wk := wk, sbox := T, perm := P, rcm := md,
        rk := writeKeys m.rk (keySchedule m.cfg k0 k1 md c.toNat), dout := some 0 } := by
  rw [runCommands_cons (exec_ldsb he hT), runCommands_cons (exec_ldpm (by exact he) hP),
    runCommands_cons_effect (.setm _ _ md (modeOperand_code md)) (by exact he),
    runCommands_cons_effect (.ldk0 _ k0) (by exact he), runCommands_cons_effect (.ldk1 _ k1) (by exact he),
    runCommands_cons (exec_ksch (by exact he) (by exact hc)), runCommands_cons_effect (.ldwk _ wk) (by exact he),
    runCommands_cons_effect (.lds _ p) (by exact he)]
  rfl

/-- Settles O38: `ENC n` leaves the encryption under the memory that `KSCH c` wrote (`runCommands_setup`, `exec_enc`),
which is that under the schedule for `n` rounds (`encrypt_writeKeys`); `RDS` answers it. -/
theorem hostProcedureComputesTheCipher : Obligations.HostProcedureComputesTheCipher := by
  unfold Obligations.HostProcedureComputesTheCipher
  intro m tb pm k0 k1 wk p md n c he h1 hnc hc
  generalize hT : unpackLut tb = T
  generalize hP : unpackLut pm = P
  have hn : isCount m.cfg.rkDepth n = true := isCount_iff.mpr ⟨h1, hnc.trans hc⟩
  rw [runCommands_setup he hT hP (isCount_iff.mpr ⟨h1.trans hnc, hc⟩),
    runCommands_cons (exec_enc (by exact he) (by exact hn)), runCommands_cons_effect (.rds _) (by exact he)]
  exact ⟨_, rfl, congrArg some (encrypt_writeKeys m.cfg m.rk k0 k1 md hnc hc p T P wk)⟩

end Sys2Proof.Machine
end

section
/-! The commands `START`, `STEP` and `ENC` (rules R77 to R79, R81): one equation per row of the micro-step table, and
what each command answers. -/

namespace Sys2Proof.Machine

/-! ### The micro-step, row by row (rule R77) -/

section
variable {m : State}

theorem advance_idle (h : m.ph = .idle) : advance m = none := by
  simp [advance, h]

theorem advance_win (h : m.ph = .win) :
    advance m = some { m with s := m.s ^^^ m.wk, ph := if m.nr = 1 then .fsub else .sub } := by
  simp only [advance, h]
  rfl

theorem advance_sub (h : m.ph = .sub) : advance m = some { m with s := substitute m.s m.sbox, ph := .shf } := by
  simp only [advance, h]
  rfl

theorem advance_shf (h : m.ph = .shf) : advance m = some { m with s := shuffle m.s m.perm, ph := .mix } := by
  simp only [advance, h]
  rfl

theorem advance_mix (h : m.ph = .mix) : advance m = some { m with s := diffuse m.s, ph := .ak } := by
  simp only [advance, h]
  rfl

theorem advance_ak (h : m.ph = .ak) (hr : m.ri.toNat < m.cfg.rkDepth) :
    advance m = some { m with
      s := m.s ^^^ m.rk.get ⟨m.ri.toNat, hr⟩, ri := m.ri + 1, ph := phaseAfterKey m.nr m.ri } := by
  simp only [advance, h, indexOperand_of_lt hr]
  rfl

theorem advance_fsub (h : m.ph = .fsub) : advance m = some { m with s := substitute m.s m.sbox, ph := .wout } := by
  simp only [advance, h]
  rfl

theorem advance_wout (h : m.ph = .wout) :
    advance m = some { m with s := m.s ^^^ m.wk, done := true, ph := .idle } := by
  simp only [advance, h]
  rfl

end

/-- Row 5's comparison `RI + 1 = NR - 1` reads the same of integers, also where `NR = 0` (log 9). -/
theorem phaseAfterKey_eq_int (nr ri : Byte) :
    phaseAfterKey nr ri = if (ri.toNat : Int) + 1 = (nr.toNat : Int) - 1 then .fsub else .sub := by
  have hiff : ri.toNat + 1 = nr.toNat - 1 ↔ (ri.toNat : Int) + 1 = (nr.toNat : Int) - 1 := by omega
  simp only [phaseAfterKey, hiff]

/-! ### What the commands answer -/

/-- Where the micro-step is defined, `STEP` takes it and answers 0 (rule R79). -/
theorem exec_step {m t : State} (he : m.err = false) (h : advance m = some t) :
    exec .step m = .next { t with dout := some 0 } := by
  have hp : m.ph ≠ .idle := fun hidle => by simp [advance_idle hidle] at h
  exact exec_of_effect (.step m t hp h) (.inl he)

/-- Settles O30: in range, the effect of `START`; outside, `exec_badOperand`. -/
theorem startCommand : Obligations.StartCommand := by
  unfold Obligations.StartCommand
  refine ⟨encodesA_of_shapeOf rfl, fun m n he h1 h2 => ?_, fun m n he h => ?_⟩
  · exact exec_of_effect (.start m n (isCount_iff.mpr ⟨h1, h2⟩)) (.inl he)
  · exact exec_badOperand he (.inr (.inl ⟨.inr (.inl rfl), h⟩))

/-- Settles O31: `exec_step` on each row of the table. -/
theorem stepAppliesTheNextLayer : Obligations.StepAppliesTheNextLayer := by
  unfold Obligations.StepAppliesTheNextLayer
  refine ⟨encodesN_of_shapeOf rfl, fun m he => ⟨fun hp => exec_badSequence he hp (.inl rfl),
    fun hp => exec_step he (advance_win hp), fun hp => exec_step he (advance_sub hp),
    fun hp => exec_step he (advance_shf hp), fun hp => exec_step he (advance_mix hp), fun hr hp => ?_,
    fun hp => exec_step he (advance_fsub hp), fun hp => exec_step he (advance_wout hp)⟩⟩
  rw [← phaseAfterKey_eq_int]
  exact exec_step he (advance_ak hp hr)

/-- Settles O33: `exec_enc` in range, `exec_badOperand` outside. -/
theorem encComputesEncrypt : Obligations.EncComputesEncrypt := by
  unfold Obligations.EncComputesEncrypt
  refine ⟨encodesA_of_shapeOf rfl, fun m n he h1 h2 => exec_enc he (isCount_iff.mpr ⟨h1, h2⟩),
    fun m n he h => ?_⟩
  exact exec_badOperand he (.inr (.inl ⟨.inr (.inr rfl), h⟩))

end Sys2Proof.Machine
end

section
/-! The encryption as a function (rules R75, R76): its loop over the round keys, and the number of its layers. -/

namespace Sys2Proof.Machine

/-- The block after the input whitening and `i` full rounds (rule R75). -/
def blockAfterRounds (p : Word64) (T P : Lut) (rk : List Word64) (wk : Word64) (i : Nat) : Word64 :=
  (rk.take i).foldl (fun s k => roundFunction s T P k) (p ^^^ wk)

section
variable (p : Word64) (T P : Lut) (rk : List Word64) (wk : Word64)

theorem blockAfterRounds_zero : blockAfterRounds p T P rk wk 0 = p ^^^ wk := by
  simp [blockAfterRounds]

/-- Full round `i + 1` uses round key `i` (rule R75). -/
theorem blockAfterRounds_succ {i : Nat} (h : i < rk.length) :
    blockAfterRounds p T P rk wk (i + 1) = roundFunction (blockAfterRounds p T P rk wk i) T P rk[i] := by
  rw [blockAfterRounds, List.take_succ_eq_append_getElem h, List.foldl_append]
  rfl

theorem encrypt_eq_blockAfterRounds (n : Nat) :
    encrypt p n T P rk wk = substitute (blockAfterRounds p T P rk wk (n - 1)) T ^^^ wk := rfl

end

/-- Settles O34: the loop's states are `blockAfterRounds`. -/
theorem encryptIsTheRoundLoop : Obligations.EncryptIsTheRoundLoop := by
  unfold Obligations.EncryptIsTheRoundLoop
  intro p n T P rk wk _ hk
  exact ⟨blockAfterRounds p T P rk wk, blockAfterRounds_zero p T P rk wk,
    fun i hi => blockAfterRounds_succ p T P rk wk (by omega), encrypt_eq_blockAfterRounds p T P rk wk n⟩

/-- Four layers per full round, and three more (rule R76). -/
theorem layerSequence_length {depth n : Nat} (h : n ≤ depth + 1) :
    (layerSequence depth n).length = 4 * (n - 1) + 3 := by
  have hmin : min (n - 1) depth = n - 1 := by omega
  simp [layerSequence, List.length_flatMap, hmin]
  omega

/-- Settles O35: `layerSequence_length` and `foldl_layerSequence`. -/
theorem layersComputeEncrypt : Obligations.LayersComputeEncrypt := by
  unfold Obligations.LayersComputeEncrypt
  intro m p n _ hn
  exact ⟨layerSequence_length hn, foldl_layerSequence m p n⟩

end Sys2Proof.Machine
end

section
/-! `RUN` (rule R80): the loop ends in the one state that every micro-step on the way agrees on, with the final block in
`S` and the controller as after the last step. -/

namespace Sys2Proof.Machine

/-- The layers read the configuration, the tables and the keys only. -/
theorem foldl_applyLayer_congr (m : State) (s : Word64) (nr ri : Byte) (ph : Phase) (done : Bool) (d : Option Word64)
    (ls : List (Layer m.cfg.rkDepth)) (v : Word64) :
    ls.foldl (applyLayer { m with s := s, nr := nr, ri := ri, ph := ph, done := done, dout := d }) v =
      ls.foldl (applyLayer m) v := by
  congr 1
  funext v l
  cases l <;> rfl

/-- The state at the end of the encryption in progress (rule R82). -/
def State.ended (m : State) : State := { m with s := m.finalS, ri := m.nr - 1, ph := .idle, done := true }

section
variable {m t : State}

/-- An encryption in progress has at least one round (rule R82 (a)). -/
theorem one_le_nr_of_busy (hm : m.ControllerInv) (hp : m.ph ≠ .idle) : 1 ≤ m.nr.toNat := by
  obtain ⟨hwin, hround, hfinal, -⟩ := hm
  cases hq : m.ph
  case idle => exact absurd hq hp
  case win =>
    obtain ⟨-, hn, -⟩ := hwin hq
    exact hn
  case fsub | wout => have := hfinal (by simp [hq]); omega
  all_goals have := hround (by simp [hq]); omega

/-- With no encryption in progress, and one started before, the controller is as after the last step (rule R82 (a)). -/
theorem idle_registers (hm : m.ControllerInv) (hp : m.ph = .idle) (hn : 1 ≤ m.nr.toNat) :
    m.done = true ∧ m.ri = m.nr - 1 := by
  obtain ⟨-, -, -, hend, -⟩ := hm
  obtain ⟨-, hzero, -⟩ | ⟨hdone, hri, -⟩ := hend hp
  · simp [hzero] at hn
  · exact ⟨hdone, by bv_omega⟩

theorem State.ended_of_idle (hm : m.ControllerInv) (hp : m.ph = .idle) (hn : 1 ≤ m.nr.toNat) : m.ended = m := by
  obtain ⟨hdone, hri⟩ := idle_registers hm hp hn
  rw [State.ended, State.finalS_idle hp, ← hri, ← hp, ← hdone]

/-- The response is no part of the block. -/
theorem State.finalS_setDout (m : State) (d : Option Word64) : (m.setDout d).finalS = m.finalS :=
  foldl_applyLayer_congr m m.s m.nr m.ri m.ph m.done d _ _

theorem State.ended_setDout (m : State) (d : Option Word64) : (m.setDout d).ended = m.ended.setDout d := by
  rw [State.ended, State.finalS_setDout]
  rfl

/-- A micro-step does not change the state at the end. -/
theorem advance_ended (hm : m.ControllerInv) (h : advance m = some t) : t.ended = m.ended := by
  rw [State.ended, State.ended, advance_finalS hm h, advance_frame h]

/-- The loop leads to the state at the end (rules R80, R82). -/
theorem advanceAll_ended (hm : m.ControllerInv) (hp : m.ph ≠ .idle) :
    advanceAll (maxMicroSteps m.cfg.rkDepth) m = some m.ended := by
  obtain ⟨t, ht, hidle, hinv⟩ := advanceAll_spec hm (microStepsLeft_le hm)
  have hnr : t.nr = m.nr := by rw [advanceAll_frame ht]
  have hend : t.ended = t := State.ended_of_idle hinv hidle (hnr ▸ one_le_nr_of_busy hm hp)
  rw [ht, ← hend, State.ended, State.ended, advanceAll_finalS hm ht, advanceAll_frame ht]

/-- `RUN` ends the encryption in progress (rule R80). -/
theorem exec_run (he : m.err = false) (hm : m.ControllerInv) (hp : m.ph ≠ .idle) :
    exec .run m = .next { m.ended with dout := some 0 } :=
  exec_of_effect (.run m _ hp (advanceAll_ended hm hp)) (.inl he)

/-- `RUN` does what `STEP` and then `RUN` do, or `STEP` alone if it is the last (rules R79, R80). -/
theorem exec_run_eq_step_then_run (he : m.err = false) (hm : m.ControllerInv) (hp : m.ph ≠ .idle) :
    ∃ t, exec .step m = .next t ∧ exec .run m = if t.ph = .idle then .next t else exec .run t := by
  obtain ⟨u, hu, hinv, -⟩ := advance_spec hm hp
  have hend : u.ended = m.ended := advance_ended hm hu
  have hframe := advance_frame hu
  refine ⟨_, exec_step he hu, ?_⟩
  rw [exec_run he hm hp, ← hend]
  split
  case isTrue hidle =>
    have hnr : u.nr = m.nr := by rw [hframe]
    rw [State.ended_of_idle hinv hidle (hnr ▸ one_le_nr_of_busy hm hp)]
  case isFalse hbusy =>
    have herr : u.err = false := by rw [hframe, he]
    refine ((exec_run (m := u.setDout (some 0)) herr hinv hbusy).trans ?_).symm
    rw [State.ended_setDout]
    rfl

end

/-- Settles O32: `exec_run`, and `exec_run_eq_step_then_run`; in phase 0, `exec_badSequence`. -/
theorem runFinishesTheEncryption : Obligations.RunFinishesTheEncryption := by
  unfold Obligations.RunFinishesTheEncryption
  refine ⟨encodesN_of_shapeOf rfl, fun m he hp => exec_badSequence he hp (.inr rfl), fun m he hp hm => ?_⟩
  exact ⟨⟨m.finalS, exec_run he hm hp⟩, exec_run_eq_step_then_run he hm hp⟩

end Sys2Proof.Machine
end

section
/-! An encryption taken one `STEP` at a time (rule R82): how many steps it has, and what `S` holds after each. -/

namespace Sys2Proof.Machine

/-- What `S` holds `k` micro-steps on: the first `k` of the layers still to be applied, applied to `S` (rules R76,
R82 (d)). -/
def State.checkpoint (m : State) (k : Nat) : Word64 :=
  ((layersLeft m.cfg.rkDepth m.nr.toNat m.ri.toNat m.ph).take k).foldl (applyLayer m) m.s

theorem State.checkpoint_zero (m : State) : m.checkpoint 0 = m.s := by
  simp [State.checkpoint]

/-- `k` micro-steps on from the next state are `k + 1` from this one. -/
theorem advance_checkpoint {m t : State} (hm : m.ControllerInv) (h : advance m = some t) (k : Nat) :
    t.checkpoint k = m.checkpoint (k + 1) := by
  obtain ⟨l, hs, hl⟩ := advance_layersLeft hm h
  rw [State.checkpoint, State.checkpoint, hl, List.take_succ_cons, List.foldl_cons, ← hs]
  obtain ⟨s, ri, ph, done, rfl⟩ : ∃ s ri ph done, t = { m with s := s, ri := ri, ph := ph, done := done } :=
    ⟨_, _, _, _, advance_frame h⟩
  rw [applyLayer_congr]

theorem State.checkpoint_setDout (m : State) (d : Option Word64) (k : Nat) :
    (m.setDout d).checkpoint k = m.checkpoint k :=
  foldl_applyLayer_congr m m.s m.nr m.ri m.ph m.done d _ _

/-- At the start of an encryption the layers still to be applied are those of rule R76. -/
theorem startEncryption_checkpoint (n : Byte) (m : State) (k : Nat) :
    (startEncryption n m).checkpoint k = ((layerSequence m.cfg.rkDepth n.toNat).take k).foldl (applyLayer m) m.s :=
  foldl_applyLayer_congr m m.s n 0 .win false m.dout _ _

/-- `t` is `k` `STEP`s on from `m` in the same encryption, and no step faulted. -/
structure StepsTo (m : State) (k : Nat) (t : State) : Prop where
  err : t.err = false
  inv : t.ControllerInv
  nr : t.nr = m.nr
  left : microStepsLeft t + k = microStepsLeft m
  s : t.s = m.checkpoint k

/-- As many `STEP`s as the encryption still takes run without a fault (rule R82 (b), (d)). -/
theorem runCommands_steps {m : State} {k : Nat} (he : m.err = false) (hm : m.ControllerInv)
    (hk : k ≤ microStepsLeft m) : ∃ t, runCommands (List.replicate k .step) m = .next t ∧ StepsTo m k t := by
  induction k generalizing m with
  | zero => exact ⟨m, rfl, he, hm, rfl, rfl, m.checkpoint_zero.symm⟩
  | succ k ih =>
    have hp : m.ph ≠ .idle := fun hidle => by have := (microStepsLeft_eq_zero hm).mpr hidle; omega
    obtain ⟨u, hu, hinv, hleft⟩ := advance_spec hm hp
    have hframe := advance_frame hu
    have herr : u.err = false := by rw [hframe, he]
    have hnr : u.nr = m.nr := by rw [hframe]
    have hleft' : microStepsLeft (u.setDout (some 0)) + 1 = microStepsLeft m := hleft
    obtain ⟨t, ht, hsteps⟩ := ih (m := u.setDout (some 0)) herr hinv (by omega)
    refine ⟨t, (runCommands_cons (exec_step he hu) _).trans ht, hsteps.err, hsteps.inv, hsteps.nr.trans hnr, ?_, ?_⟩
    · have := hsteps.left
      omega
    · rw [hsteps.s, State.checkpoint_setDout, advance_checkpoint hm hu]

/-- Commands that answer a state are followed by the others from that state (rule R28). -/
theorem runCommands_append {is : List Instr} {m t : State} (h : runCommands is m = .next t) (js : List Instr) :
    runCommands (is ++ js) m = runCommands js t := by
  induction is generalizing m with
  | nil => rw [← Host.Outcome.next.inj h]; rfl
  | cons i is ih =>
    rw [runCommands] at h
    split at h
    case h_1 u hu => exact (runCommands_cons hu _).trans (ih h)
    all_goals cases h

/-- The encryption is over exactly when `DONE` is set, once one has been started (rules R18, R82). -/
theorem done_iff_idle {m : State} (hm : m.ControllerInv) (hn : 1 ≤ m.nr.toNat) : m.done = true ↔ m.ph = .idle := by
  refine ⟨fun hd => ?_, fun hp => (idle_registers hm hp hn).1⟩
  obtain ⟨-, -, -, -, hbusy⟩ := hm
  by_contra hp
  simp [hbusy hp] at hd

section
variable {m : State} {n : Byte} (he : m.err = false) (hn : isCount m.cfg.rkDepth n = true)
include he hn

/-- After `START n`, every number of `STEP`s up to the encryption's (rule R82). -/
theorem runCommands_start_steps {k : Nat} (hk : k ≤ 4 * (n.toNat - 1) + 3) :
    ∃ t, runCommands (.start n :: List.replicate k .step) m = .next t ∧
      StepsTo ((startEncryption n m).setDout (some 0)) k t := by
  rw [runCommands_cons_effect (.start m n hn) he]
  exact runCommands_steps he (startEncryption_inv hn) hk

/-- `START n` and all of its `STEP`s, no more and no fewer, complete the encryption (rule R82 (b)). -/
theorem runCommands_start_steps_ends {k : Nat} (hk : k ≤ 4 * (n.toNat - 1) + 3) :
    ∃ t, runCommands (.start n :: List.replicate k .step) m = .next t ∧ t.err = false ∧
      (t.ph = .idle ↔ k = 4 * (n.toNat - 1) + 3) ∧ (t.done = true ↔ k = 4 * (n.toNat - 1) + 3) := by
  obtain ⟨t, ht, hsteps⟩ := runCommands_start_steps he hn hk
  have hleft : microStepsLeft t + k = 4 * (n.toNat - 1) + 3 := hsteps.left
  have hnr : t.nr = n := hsteps.nr
  have hidle : t.ph = .idle ↔ k = 4 * (n.toNat - 1) + 3 := by
    rw [← microStepsLeft_eq_zero hsteps.inv]
    omega
  exact ⟨t, ht, hsteps.err, hidle, (done_iff_idle hsteps.inv (hnr ▸ (isCount_iff.mp hn).1)).trans hidle⟩

end

/-- Settles O36: `runCommands_start_steps_ends`, and one more `STEP` finds phase 0 (`exec_badSequence`). -/
theorem stepsOfAnEncryption : Obligations.StepsOfAnEncryption := by
  unfold Obligations.StepsOfAnEncryption
  intro m n he h1 h2
  have hn : isCount m.cfg.rkDepth n = true := isCount_iff.mpr ⟨h1, h2⟩
  refine ⟨fun k hk => runCommands_start_steps_ends he hn hk, ?_⟩
  obtain ⟨t, ht, herr, hidle, -⟩ := runCommands_start_steps_ends he hn le_rfl
  have hfault : runCommands [.step] t = .next (t.faulted .badSequence 0x41 0) :=
    runCommands_cons (exec_badSequence herr (hidle.mpr rfl) (.inl rfl)) []
  rw [List.replicate_succ', ← List.cons_append, runCommands_append ht, hfault]
  exact ⟨_, rfl, rfl, rfl, rfl, rfl⟩

/-- Settles O37: the steps lead from checkpoint to checkpoint (`runCommands_start_steps`), and those of a start are the
results of rule R76's layers (`startEncryption_checkpoint`). -/
theorem stepsVisitEveryCheckpoint : Obligations.StepsVisitEveryCheckpoint := by
  unfold Obligations.StepsVisitEveryCheckpoint
  intro m n k he h1 h2 hk
  obtain ⟨t, ht, hsteps⟩ := runCommands_start_steps he (isCount_iff.mpr ⟨h1, h2⟩) hk
  exact ⟨t, ht, by rw [hsteps.s, State.checkpoint_setDout, startEncryption_checkpoint]⟩

end Sys2Proof.Machine
end

section
/-! Every host action is answered (rule R110): a command is refused, faults, or has its effect, and in the controller's
invariant the micro-steps of `STEP` and `RUN` are defined. -/

namespace Sys2Proof.Machine

/-- A command has an operand out of its range, or needs an encryption in progress where there is none, or has its
effect; for `STEP` and `RUN` in every state of the controller's invariant (rule R86; log 8, log 16). -/
theorem fault_or_effect (i : Instr) (m : State) (hm : i = .step ∨ i = .run → m.ControllerInv) :
    OperandOutOfRange m.cfg.rkDepth i.opcode i.fieldA ∨ (m.ph = .idle ∧ (i = .step ∨ i = .run)) ∨
      ∃ t, Effect i m t := by
  cases i
  case ldrk a _ | rdrk a | ak a | rnd a =>
    cases hx : indexOperand m.cfg.rkDepth a with
    | none => exact .inl (.inl ⟨by simp [Instr.opcode], not_index hx⟩)
    | some j => exact .inr (.inr ⟨_, by constructor; exact hx⟩)
  case setm a =>
    cases hx : modeOperand a with
    | none => exact .inl (.inr (.inr ⟨rfl, not_mode hx⟩))
    | some md => exact .inr (.inr ⟨_, .setm m a md hx⟩)
  case ksch a | start a =>
    cases hc : isCount m.cfg.rkDepth a with
    | false => exact .inl (.inr (.inl ⟨by simp [Instr.opcode], not_count hc⟩))
    | true => exact .inr (.inr ⟨_, by constructor; exact hc⟩)
  case enc a =>
    cases hc : isCount m.cfg.rkDepth a with
    | false => exact .inl (.inr (.inl ⟨.inr (.inr rfl), not_count hc⟩))
    | true =>
      obtain ⟨t, ht, -⟩ := startEncryption_runs hc
      exact .inr (.inr ⟨t, .enc m t a hc ht⟩)
  case step =>
    by_cases hp : m.ph = .idle
    · exact .inr (.inl ⟨hp, .inl rfl⟩)
    · obtain ⟨t, ht, -⟩ := advance_spec (hm (.inl rfl)) hp
      exact .inr (.inr ⟨t, .step m t hp ht⟩)
  case run =>
    by_cases hp : m.ph = .idle
    · exact .inr (.inl ⟨hp, .inr rfl⟩)
    · exact .inr (.inr ⟨_, .run m _ hp (advanceAll_ended (hm (.inr rfl)) hp)⟩)
  all_goals exact .inr (.inr ⟨_, by constructor⟩)

/-- A command answers a next state; for `STEP` and `RUN` in every state of the controller's invariant (log 8, log 16).
-/
theorem exec_answers (i : Instr) (m : State) (hm : i = .step ∨ i = .run → m.ControllerInv) :
    ∃ t, exec i m = .next t := by
  obtain he | he := Bool.eq_false_or_eq_true m.err
  · by_cases hi : i = .rdst
    · subst hi
      exact ⟨_, exec_of_effect (.rdst m) (.inr rfl)⟩
    · exact ⟨_, exec_refused he hi⟩
  · obtain ho | ⟨hp, hi⟩ | ⟨t, ht⟩ := fault_or_effect i m hm
    · exact ⟨_, exec_badOperand he ho⟩
    · exact ⟨_, exec_badSequence he hp hi⟩
    · exact ⟨_, exec_of_effect ht (.inl he)⟩

/-- An illegal word is refused or raises `ILLEGAL_CMD` (rules R34, R90). -/
theorem execIllegal_answers (cw : CmdWord) (m : State) : ∃ t, execIllegal cw m = .next t := by
  obtain he | he := Bool.eq_false_or_eq_true m.err
  · exact ⟨_, unlessFaulted_faulted he⟩
  · exact ⟨_, unlessFaulted_clear he⟩

theorem runWord_answers (cw : CmdWord) {m : State} (hm : m.ControllerInv) : ∃ t, runWord cw m = .next t := by
  cases hd : decode cw with
  | cmd i => exact runWord_cmd hd m ▸ exec_answers i m fun _ => hm
  | illegal why => exact runWord_illegal hd m ▸ execIllegal_answers cw m

/-- Settles O52: a step is no action, a `reset`, or a word (`runWord_answers`). -/
theorem everyActionAnswers : Obligations.EveryActionAnswers := by
  unfold Obligations.EveryActionAnswers
  intro m hm
  match hh : m.host with
  | [] => exact ⟨m, step_idle hh⟩
  | .reset :: rest => exact ⟨_, step_reset hh⟩
  | .issue cw :: rest => exact step_issue hh ▸ runWord_answers cw (m := m.setHost rest) hm

end Sys2Proof.Machine
end

section
/-! The faulted block (rules R90 to R92): while `ERR = 1` every word but `RDST` is refused, and no piece of the block's
state changes until a `reset`. -/

namespace Sys2Proof.Machine

/-! ### One word -/

/-- The one word of `RDST` (rules R33, R34). -/
theorem decode_eq_rdst_iff {cw : CmdWord} : decode cw = .cmd .rdst ↔ cw = 0x18000000000000000000 := by
  constructor
  · exact fun h => (encode_of_decode h).symm
  · rintro rfl
    exact decode_encode .rdst

/-- A word issued while `ERR = 1` changes nothing but the response: `STATUS` for `RDST`, else 0 (rule R90). -/
theorem step_issue_faulted {m : State} {cw : CmdWord} {rest : List HostAction} (hh : m.host = .issue cw :: rest)
    (he : m.err = true) :
    step m = .next { m with host := rest, dout := some (if cw = 0x18000000000000000000 then status m else 0) } := by
  by_cases hcw : cw = 0x18000000000000000000
  · rw [if_pos hcw, step_issue_cmd hh (decode_eq_rdst_iff.mpr hcw)]
    exact exec_of_effect (.rdst (m.setHost rest)) (.inr rfl)
  · rw [if_neg hcw]
    cases hd : decode cw with
    | cmd i =>
      have hi : i ≠ .rdst := by
        rintro rfl
        exact hcw (decode_eq_rdst_iff.mp hd)
      exact (step_issue_cmd hh hd).trans (exec_refused (m := m.setHost rest) he hi)
    | illegal why => exact step_issue_illegal_refused hh he hd

/-- Settles O42: `step_issue_faulted`. -/
theorem faultedBlockRefuses : Obligations.FaultedBlockRefuses := by
  unfold Obligations.FaultedBlockRefuses
  exact fun _ _ _ => step_issue_faulted

/-! ### Any number of actions -/

/-- `ERR` is one of the pieces of the block's state. -/
theorem err_eq_of_block_eq {m t : State} (h : t.block = m.block) : t.err = m.err := by
  have hb : t.block.err = m.block.err := congrArg State.err h
  exact hb

/-- One step from a state with `ERR = 1`, with no `reset` to come, keeps the whole block and leaves no `reset` to come
(rules R90, R92). -/
theorem step_faulted_keeps_block {m : State} (he : m.err = true) (hr : HostAction.reset ∉ m.host) :
    ∃ u, step m = .next u ∧ u.block = m.block ∧ HostAction.reset ∉ u.host := by
  match hh : m.host with
  | [] => exact ⟨m, step_idle hh, rfl, hr⟩
  | .reset :: rest => simp [hh] at hr
  | .issue cw :: rest =>
    exact ⟨_, step_issue_faulted hh he, rfl, fun h => hr (hh ▸ List.mem_cons_of_mem (.issue cw) h)⟩

/-- Settles O43, by induction on the number of steps: `ERR = 1` and the absence of a `reset` pass from each state to the
next, which has the same block (`step_faulted_keeps_block`). -/
theorem onlyResetLeavesTheFaultedState : Obligations.OnlyResetLeavesTheFaultedState := by
  unfold Obligations.OnlyResetLeavesTheFaultedState
  intro k
  induction k with
  | zero => exact fun m _ _ => ⟨m, rfl, rfl⟩
  | succ k ih =>
    intro m he hr
    obtain ⟨u, hu, hblock, hno⟩ := step_faulted_keeps_block he hr
    obtain ⟨t, ht, hkept⟩ := ih u ((err_eq_of_block_eq hblock).trans he) hno
    exact ⟨t, core_run_of_step_next hu ht, hkept.trans hblock⟩

end Sys2Proof.Machine
end

section
/-! Fault entry (rules R85 to R89): with `ERR = 0` a word raises the fault of the first of rule R88's checks that it
fails, or passes them all and raises none (`step_issue_clear_cases`). -/

namespace Sys2Proof.Machine

/-! ### Commands -/

/-- `STEP` and `RUN` are the commands of opcodes 0x41 and 0x42 (rule R33). -/
theorem step_or_run_iff_opcode (i : Instr) : i = .step ∨ i = .run ↔ i.opcode = 0x41 ∨ i.opcode = 0x42 := by
  cases i <;> simp [Instr.opcode]

section
variable {i : Instr} {m u : State}

/-- A command that has its effect passed the check of its operand: one that fails it raises a fault instead, and an
effect leaves `ERR` as it was (rule R88). -/
theorem Effect.operand_in_range (h : Effect i m u) (he : m.err = false) :
    ¬ OperandOutOfRange m.cfg.rkDepth i.opcode i.fieldA := by
  intro ho
  obtain ⟨hu, -⟩ := h.record_eq
  have hnext := (exec_of_effect h (.inl he)).symm.trans (exec_badOperand he ho)
  have herr : u.err = true := congrArg State.err (Host.Outcome.next.inj hnext)
  simp [hu, he] at herr

/-- `STEP` and `RUN` have their effect only where an encryption is in progress (rules R79, R80). -/
theorem Effect.in_sequence (h : Effect i m u) : ¬ ((i = .step ∨ i = .run) ∧ m.ph = .idle) := by
  rintro ⟨rfl | rfl, hp⟩
  · cases h with
    | step _ _ hbusy _ => exact hbusy hp
  · cases h with
    | run _ _ hbusy _ => exact hbusy hp

end

/-- The operand of `STEP` and `RUN` has no range (rule R32). -/
theorem operand_in_range_of_step_or_run {i : Instr} (hi : i = .step ∨ i = .run) (depth : Nat) :
    ¬ OperandOutOfRange depth i.opcode i.fieldA := by
  obtain rfl | rfl := hi <;> simp [OperandOutOfRange, Instr.opcode]

/-! ### Words -/

/-- What a word issued with `ERR = 0` did, by the first of rule R88's checks that it fails. -/
theorem step_issue_clear_cases {m t : State} {cw : CmdWord} {rest : List HostAction} (hh : m.host = .issue cw :: rest)
    (he : m.err = false) (h : step m = .next t) :
    (wellFormedWord cw = false ∧ t = (m.setHost rest).faulted .illegalCmd (cwOp cw) (cwA cw)) ∨
    (wellFormedWord cw = true ∧ OperandOutOfRange m.cfg.rkDepth (cwOp cw) (cwA cw) ∧
      t = (m.setHost rest).faulted .badOperand (cwOp cw) (cwA cw)) ∨
    (wellFormedWord cw = true ∧ ¬ OperandOutOfRange m.cfg.rkDepth (cwOp cw) (cwA cw) ∧
      ((cwOp cw = 0x41 ∨ cwOp cw = 0x42) ∧ m.ph = .idle) ∧
      t = (m.setHost rest).faulted .badSequence (cwOp cw) (cwA cw)) ∨
    (wellFormedWord cw = true ∧ ¬ OperandOutOfRange m.cfg.rkDepth (cwOp cw) (cwA cw) ∧
      ¬ ((cwOp cw = 0x41 ∨ cwOp cw = 0x42) ∧ m.ph = .idle) ∧ t.err = false) := by
  obtain ⟨hw, i, hd⟩ | ⟨hw, why, hd⟩ := wellFormedWord_cases cw
  · have hexec : exec i (m.setHost rest) = .next t := (step_issue_cmd hh hd).symm.trans h
    obtain rfl := encode_of_decode hd
    rw [cwOp_encode, cwA_encode, ← step_or_run_iff_opcode]
    obtain ⟨hf, -⟩ | ⟨-, ho, ht⟩ | ⟨-, hp, hi, ht⟩ | ⟨-, u, hu, rfl⟩ := exec_cases hexec
    · exact absurd (he.symm.trans hf) (by decide)
    · exact .inr (.inl ⟨hw, ho, ht⟩)
    · exact .inr (.inr (.inl ⟨hw, operand_in_range_of_step_or_run hi _, ⟨hi, hp⟩, ht⟩))
    · obtain ⟨hu_err, -⟩ := hu.record_eq
      exact .inr (.inr (.inr ⟨hw, hu.operand_in_range he, hu.in_sequence, hu_err.trans he⟩))
  · exact .inl ⟨hw, Host.Outcome.next.inj (h.symm.trans (step_issue_illegal hh he hd))⟩

/-- Settles O40: each of the three faults of `step_issue_clear_cases` is the state of the statement, and a word that
passes the checks leaves `ERR = 0`. -/
theorem faultEntryIsPrecise : Obligations.FaultEntryIsPrecise := by
  unfold Obligations.FaultEntryIsPrecise
  intro m t cw rest hh he h ht
  obtain ⟨hw, rfl⟩ | ⟨hw, ho, rfl⟩ | ⟨hw, ho, -, rfl⟩ | ⟨-, -, -, hclear⟩ := step_issue_clear_cases hh he h
  · rw [if_pos hw]
    rfl
  · rw [if_neg (by simp [hw]), if_pos ho]
    rfl
  · rw [if_neg (by simp [hw]), if_neg ho]
    rfl
  · simp [hclear] at ht

/-- Settles O41: with `ERR = 1` the word is refused (`step_issue_faulted`); with `ERR = 0` the words that
fault are those of `step_issue_clear_cases`, and the cause is that of `faultEntryIsPrecise`. -/
theorem causesOfFaults : Obligations.CausesOfFaults := by
  unfold Obligations.CausesOfFaults
  refine ⟨⟨rfl, rfl, rfl, rfl⟩, fun m t cw rest hh h => ⟨fun he => ?_, fun he => ?_⟩⟩
  · obtain rfl := Host.Outcome.next.inj ((step_issue_faulted hh he).symm.trans h)
    exact ⟨he, rfl, rfl, rfl⟩
  · refine ⟨?_, fun ht => congrArg State.cause (faultEntryIsPrecise m t cw rest hh he h ht)⟩
    obtain ⟨hw, rfl⟩ | ⟨-, ho, rfl⟩ | ⟨-, -, hs, rfl⟩ | ⟨hw, ho, hs, hclear⟩ := step_issue_clear_cases hh he h
    · exact iff_of_true rfl (.inl hw)
    · exact iff_of_true rfl (.inr (.inl ho))
    · exact iff_of_true rfl (.inr (.inr hs))
    · exact iff_of_false (by simp [hclear]) (not_or.mpr ⟨by simp [hw], not_or.mpr ⟨ho, hs⟩⟩)

end Sys2Proof.Machine
end

section
/-! `reset` as a host action (rule R98). -/

namespace Sys2Proof.Machine

/-- Settles O10: `step_reset`. -/
theorem resetActionIsTotal : Obligations.ResetActionIsTotal := by
  unfold Obligations.ResetActionIsTotal
  exact fun _ _ => step_reset

end Sys2Proof.Machine
end

section
/-! Writes to round keys already consumed (rule R102): the layers an encryption still takes read no round key below
`RI`, so such a write does not change the block they lead to. -/

namespace Sys2Proof.Machine

/-- The layers from the full round `ri` on add no round key below `ri` (rule R76). -/
theorem le_of_addKey_mem_layersFrom {depth nr ri : Nat} {r : Fin depth} (h : .addKey r ∈ layersFrom depth nr ri) :
    ri ≤ r.val := by
  have hr : r ∈ ((List.finRange depth).take (nr - 1)).drop ri := by simpa [layersFrom, roundLayers] using h
  obtain ⟨i, hi, rfl⟩ := List.mem_drop_iff_getElem.mp hr
  simp

/-- The layers still to be applied add no round key already consumed (rules R77, R102). -/
theorem ri_le_of_addKey_mem_layersLeft {m : State} (hm : m.ControllerInv) {r : Fin m.cfg.rkDepth}
    (h : .addKey r ∈ layersLeft m.cfg.rkDepth m.nr.toNat m.ri.toNat m.ph) : m.ri.toNat ≤ r.val := by
  obtain ⟨hwin, -⟩ := hm
  cases hp : m.ph <;> rw [hp] at h
  case win =>
    obtain ⟨hri, -⟩ := hwin hp
    simp [hri]
  case sub => exact le_of_addKey_mem_layersFrom h
  case shf | mix | ak => exact le_of_addKey_mem_layersFrom (List.mem_of_mem_drop h)
  case idle | fsub | wout => simp [layersLeft] at h

/-- A layer that does not add round key `j` does not read it (rule R76). -/
theorem applyLayer_rkWrite (m : State) {j : Fin m.cfg.rkDepth} (v s : Word64) {l : Layer m.cfg.rkDepth}
    (h : l ≠ .addKey j) : applyLayer (rkWrite m j v) s l = applyLayer m s l := by
  cases l
  case addKey r =>
    have hne : j ≠ r := fun e => h (e ▸ rfl)
    exact congrArg (s ^^^ ·) (rkRead_rkWrite_other m v hne)
  all_goals rfl

/-- A write to a round key already consumed does not change the block at the end (rule R102). -/
theorem rkWrite_finalS {m : State} (hm : m.ControllerInv) {j : Fin m.cfg.rkDepth} (h : j.val < m.ri.toNat)
    (v : Word64) : (rkWrite m j v).finalS = m.finalS := by
  refine List.foldl_ext (applyLayer (rkWrite m j v)) (applyLayer m) m.s fun s l hl => applyLayer_rkWrite m v s ?_
  rintro rfl
  exact absurd (ri_le_of_addKey_mem_layersLeft hm hl) (not_le.mpr h)

/-- Settles O39: `exec_run` from both states, whose final blocks are one (`rkWrite_finalS`). -/
theorem consumedRoundKeysDoNotMatter : Obligations.ConsumedRoundKeysDoNotMatter := by
  unfold Obligations.ConsumedRoundKeysDoNotMatter
  intro m j v he hp hm hj
  refine ⟨m.finalS, exec_run he hm hp, (exec_run (m := rkWrite m j v) he hm hp).trans ?_⟩
  rw [State.ended, rkWrite_finalS hm hj]
  rfl

end Sys2Proof.Machine
end

section
/-! When an encryption within a run is complete (rule R106; log 19): exactly when the run's actions say that `DONE` was
set and no `START` issued since, because then `DONE` is still set, and with it `PH = 0`. -/

namespace Sys2Proof.Machine

/-! ### What one action makes of `Progress.doneStands` -/

/-- After a word, `DONE` was set with no `START` since exactly if the word is no `START`, and it is a `STEP`, `RUN` or
`ENC` that ended in phase 0 without a fault, or the same held before it (log 19). -/
theorem doneStandsAfter_issue_iff {cw : CmdWord} {t : State} {b : Bool} :
    doneStandsAfter (.issue cw) t b = true ↔
      (∀ a, decode cw ≠ .cmd (.start a)) ∧
      ((∃ i, decode cw = .cmd i ∧ i.opcode ∈ [0x41, 0x42, 0x43] ∧ t.err = false ∧ t.ph = .idle) ∨ b = true) := by
  cases hd : decode cw with
  | illegal why => simp [doneStandsAfter, issuesStart, setsDone, hd]
  | cmd i => cases i <;> simp [doneStandsAfter, issuesStart, setsDone, hd, Instr.opcode]

/-- `STEP`, `RUN` and `ENC` set `DONE` by ending in phase 0 without a fault. -/
theorem doneStandsAfter_encode {i : Instr} {t : State} (hi : i.opcode ∈ [0x41, 0x42, 0x43]) (he : t.err = false)
    (hp : t.ph = .idle) (b : Bool) : doneStandsAfter (.issue (encode i)) t b = true := by
  refine doneStandsAfter_issue_iff.mpr ⟨fun a h => ?_, .inl ⟨i, decode_encode i, hi, he, hp⟩⟩
  obtain rfl : i = .start a := by simpa [decode_encode] using h
  simp [Instr.opcode] at hi

/-! ### What a command makes of `DONE` -/

section
variable {i : Instr} {m t : State} (hm : m.ControllerInv)
include hm

/-- `DONE` is set in phase 0 only (rule R82; log 16). -/
theorem idle_of_done (hd : m.done = true) : m.ph = .idle := by
  obtain ⟨-, -, -, -, hbusy⟩ := hm
  by_contra hp
  simp [hbusy hp] at hd

/-- After an effect of `STEP`, `RUN` or `ENC`, `DONE` is set exactly in phase 0 (rules R77, R82). -/
theorem Effect.done_iff_idle (h : Effect i m t) (hi : i.opcode ∈ [0x41, 0x42, 0x43]) :
    t.done = true ↔ t.ph = .idle := by
  refine Machine.done_iff_idle (h.keeps_controllerInv hm) ?_
  cases h
  case step hp h =>
    have hnr : t.nr = m.nr := by rw [advance_frame h]
    exact hnr ▸ one_le_nr_of_busy hm hp
  case run hp h =>
    have hnr : t.nr = m.nr := by rw [advanceAll_frame h]
    exact hnr ▸ one_le_nr_of_busy hm hp
  case enc n hc h =>
    have hnr : t.nr = n := by rw [encLoop_frame h]
    exact hnr ▸ (isCount_iff.mp hc).1
  all_goals simp [Instr.opcode] at hi

/-- `STEP`, `RUN` or `ENC` that ends in phase 0 with `ERR = 0` had its effect, and so set `DONE` (rule R77). -/
theorem exec_sets_done (h : exec i m = .next t) (hi : i.opcode ∈ [0x41, 0x42, 0x43]) (he : t.err = false)
    (hp : t.ph = .idle) : t.done = true := by
  obtain ⟨hr, -, rfl⟩ | ⟨-, -, rfl⟩ | ⟨-, -, -, rfl⟩ | ⟨-, u, hu, rfl⟩ := exec_cases h
  · exact absurd (he.symm.trans hr) (by decide)
  · cases he
  · cases he
  · exact (hu.done_iff_idle hm hi).mpr hp

/-- No command but `START` clears `DONE`: `STEP` and `RUN` find phase 0, and `ENC` sets it again (rules R78 to R81). -/
theorem exec_keeps_done (h : exec i m = .next t) (hs : ∀ a, i ≠ .start a) (hd : m.done = true) : t.done = true := by
  obtain ⟨-, -, rfl⟩ | ⟨-, -, rfl⟩ | ⟨-, -, -, rfl⟩ | ⟨-, u, hu, rfl⟩ := exec_cases h
  · exact hd
  · exact hd
  · exact hd
  · cases hu
    case start => exact absurd rfl (hs _)
    case step hp _ => exact absurd (idle_of_done hm hd) hp
    case run hp _ => exact absurd (idle_of_done hm hd) hp
    case enc n hc hloop =>
      obtain ⟨v, hv, hidle, -⟩ := startEncryption_runs hc
      obtain rfl := Option.some.inj (hv.symm.trans hloop)
      exact ((Effect.enc m v n hc hloop).done_iff_idle hm (by simp [Instr.opcode])).mpr hidle
    all_goals exact hd

/-- No word but a `START` clears `DONE`: an illegal one changes at most the fault record. -/
theorem runWord_keeps_done {cw : CmdWord} (h : runWord cw m = .next t) (hs : ∀ a, decode cw ≠ .cmd (.start a))
    (hd : m.done = true) : t.done = true := by
  cases hdec : decode cw with
  | cmd i => exact exec_keeps_done hm (runWord_cmd hdec m ▸ h) (fun a e => hs a (hdec.trans (congrArg _ e))) hd
  | illegal why => obtain ⟨-, rfl⟩ | ⟨-, rfl⟩ := execIllegal_next (runWord_illegal hdec m ▸ h) <;> exact hd

end

/-! ### Every run -/

/-- The progress after the action `a`, which left the state `t`. -/
def Progress.after (p : Progress) (a : HostAction) (t : State) : Progress :=
  { state := t, doneStands := doneStandsAfter a t p.doneStands }

/-- What the start of a run has and every action keeps, its end has. -/
theorem runFrom_invariant {P : Progress → Prop}
    (hstep : ∀ a p t, P p → perform a p.state = .next t → P (p.after a t))
    {as : List HostAction} {p q : Progress} (hp : P p) (h : runFrom as p = some q) : P q := by
  induction as generalizing p with
  | nil => exact Option.some.inj h ▸ hp
  | cons a as ih =>
    rw [runFrom] at h
    split at h
    case h_1 t ht => exact ih (hstep a p t hp ht) h
    all_goals cases h

/-- What every point of a run on a block of configuration `C` has: the configuration and the invariant, and `DONE` is
set if it was set and no `START` issued since. -/
structure Progress.Sound (C : Config) (p : Progress) : Prop where
  cfg : p.state.cfg = C
  inv : p.state.Inv
  done : p.doneStands = true → p.state.done = true

/-- If `DONE` was set and no `START` issued since, also counting the action `a`, then `DONE` is set after `a`. -/
theorem perform_done {a : HostAction} {m t : State} {b : Bool} (hm : m.ControllerInv) (hb : b = true → m.done = true)
    (h : perform a m = .next t) (hd : doneStandsAfter a t b = true) : t.done = true := by
  cases a with
  | reset => cases hd
  | issue cw =>
    have hw : runWord cw (m.setHost []) = .next t := h
    obtain ⟨hs, ⟨i, hdec, hi, he, hidle⟩ | e⟩ := doneStandsAfter_issue_iff.mp hd
    · exact exec_sets_done (m := m.setHost []) hm (runWord_cmd hdec _ ▸ hw) hi he hidle
    · exact runWord_keeps_done (m := m.setHost []) hm hw hs (hb e)

section
variable {C : Config} {as : List HostAction} {p : Progress} {a : HostAction} {t : State}

theorem Progress.Sound.after (hp : p.Sound C) (ht : perform a p.state = .next t) : (p.after a t).Sound C where
  cfg := (step_cfg ht).trans hp.cfg
  inv := everyStepKeepsTheInvariant (p.state.setHost [a]) t hp.inv ht
  done := perform_done hp.inv.left hp.done ht

theorem runOf_sound (h : runOf C as = some p) : p.Sound C :=
  runFrom_invariant (fun _ _ _ hp ht => hp.after ht) ⟨rfl, resetOf_inv C, by simp⟩ h

/-- An encryption is complete exactly when `DONE` was set and no `START` issued since (rule R106; log 19). -/
theorem Progress.Sound.encryptionComplete_iff (hp : p.Sound C) : p.encryptionComplete ↔ p.doneStands = true := by
  obtain ⟨hctl, -⟩ := hp.inv
  exact ⟨fun ⟨_, _, hd⟩ => hd, fun hd => ⟨idle_of_done hctl (hp.done hd), hp.done hd, hd⟩⟩

/-- A run goes on with an action that answers, and what the actions say is whether an encryption is complete then. -/
theorem runOf_perform (h : runOf C as = some p) (ht : perform a p.state = .next t) :
    runOf C (as ++ [a]) = some (p.after a t) ∧
      ((p.after a t).encryptionComplete ↔ doneStandsAfter a t p.doneStands = true) :=
  ⟨runOf_concat h ht, ((runOf_sound h).after ht).encryptionComplete_iff⟩

/-- A run goes on with any action (rule R110). -/
theorem exists_perform (h : runOf C as = some p) (a : HostAction) : ∃ t, perform a p.state = .next t := by
  obtain ⟨hctl, -⟩ := (runOf_sound h).inv
  exact everyActionAnswers (p.state.setHost [a]) hctl

/-- Issuing a command's own word performs the command (rule R37). -/
theorem perform_encode (i : Instr) (m : State) : perform (.issue (encode i)) m = exec i (m.setHost []) :=
  step_issue_cmd (m := m.setHost [.issue (encode i)]) rfl (decode_encode i)

/-- `STEP`, `RUN` or `ENC` that ends in phase 0 without a fault completes an encryption (rules R77, R106). -/
theorem runOf_completes {i : Instr} (h : runOf C as = some p) (hi : i.opcode ∈ [0x41, 0x42, 0x43])
    (ht : exec i (p.state.setHost []) = .next t) (he : t.err = false) (hidle : t.ph = .idle) :
    ∃ q, runOf C (as ++ [.issue (encode i)]) = some q ∧ q.encryptionComplete ∧ q.state = t := by
  obtain ⟨hq, hiff⟩ := runOf_perform h ((perform_encode i p.state).trans ht)
  exact ⟨_, hq, hiff.mpr (doneStandsAfter_encode hi he hidle _), rfl⟩

end

/-- Settles O48: every point of a run is `Sound`; `ENC` and `RUN` end in phase 0 without a fault (`exec_enc`,
`exec_run`, `runOf_completes`), and `RDS` is no `START` and answers `S`. -/
theorem whenAnEncryptionIsComplete : Obligations.WhenAnEncryptionIsComplete := by
  unfold Obligations.WhenAnEncryptionIsComplete
  intro C as p h
  have hp := runOf_sound h
  obtain ⟨hctl, -⟩ := hp.inv
  refine ⟨hp.encryptionComplete_iff, fun he n h1 h2 => ?_, fun he hbusy => ?_, fun he hcomplete => ?_⟩
  · have hn : isCount p.state.cfg.rkDepth n = true := isCount_iff.mpr ⟨h1, hp.cfg ▸ h2⟩
    obtain ⟨q, hq, hcomplete, hs⟩ :=
      runOf_completes h (by simp [Instr.opcode]) (exec_enc (m := p.state.setHost []) he hn) he rfl
    exact ⟨q, hq, hcomplete, congrArg State.s hs⟩
  · obtain ⟨q, hq, hcomplete, -⟩ :=
      runOf_completes h (by simp [Instr.opcode]) (exec_run (m := p.state.setHost []) he hctl hbusy) he rfl
    exact ⟨q, hq, hcomplete⟩
  · obtain ⟨hq, hiff⟩ := runOf_perform h ((perform_encode .rds p.state).trans (exec_of_effect (.rds _) (.inl he)))
    have hstands := hp.encryptionComplete_iff.mp hcomplete
    exact ⟨_, hq, hiff.mpr (doneStandsAfter_issue_iff.mpr ⟨by simp [decode_encode], .inr hstands⟩), rfl⟩

/-- Settles O49: the run goes on with each action (`exists_perform`), and whether an encryption is complete after it is
what the actions say (`runOf_perform`, `doneStandsAfter_issue_iff`). -/
theorem startEndsCompleteness : Obligations.StartEndsCompleteness := by
  unfold Obligations.StartEndsCompleteness
  intro C as p h
  have hnext (a : HostAction) :
      ∃ q t, runOf C (as ++ [a]) = some q ∧ (q.encryptionComplete ↔ doneStandsAfter a t p.doneStands = true) := by
    obtain ⟨t, ht⟩ := exists_perform h a
    exact ⟨_, t, runOf_perform h ht⟩
  refine ⟨fun n => ?_, ?_, fun cw hcw => ?_⟩
  · obtain ⟨q, t, hq, hiff⟩ := hnext (.issue (encode (.start n)))
    exact ⟨q, hq, by simp [hiff, doneStandsAfter_issue_iff, decode_encode]⟩
  · obtain ⟨q, t, hq, hiff⟩ := hnext .reset
    exact ⟨q, hq, by simp [hiff, doneStandsAfter]⟩
  · obtain ⟨q, t, hq, hiff⟩ := hnext (.issue cw)
    refine ⟨q, hq, ?_⟩
    rw [hiff, (runOf_sound h).encryptionComplete_iff, doneStandsAfter_issue_iff]
    constructor
    · rintro ⟨-, ⟨i, hdec, hi, -⟩ | hstands⟩
      · exact absurd (List.mem_cons_of_mem 0x40 hi) (hcw i hdec)
      · exact hstands
    · exact fun hstands => ⟨fun n hdec => hcw _ hdec (by simp [Instr.opcode]), .inr hstands⟩

end Sys2Proof.Machine
end

section
/-! The 25 commands other than `STEP` and `RUN` answer in every state, also in those no run reaches (rule R110; log 8). -/

namespace Sys2Proof.Machine

/-- Settles O51: `exec_answers` asks for the controller's invariant only of `STEP` and `RUN`, the two commands whose
micro-steps go on from the phase and the round index that the state holds. -/
theorem otherCommandsAlwaysAnswer : Obligations.OtherCommandsAlwaysAnswer := by
  unfold Obligations.OtherCommandsAlwaysAnswer
  intro i m hstep hrun
  have hneither : ¬ (i = .step ∨ i = .run) := not_or.mpr ⟨hstep, hrun⟩
  exact exec_answers i m fun hi => absurd hi hneither

end Sys2Proof.Machine
end
